-- ==== Sys2Proof/Word.lean ====
section
/-! DEFINITION. The words of the engine: bytes, 32-bit words and 16-byte digests (spec 00_scope.md R9, R10). -/

namespace Sys2Proof

/-- A byte: 8 bits (R9). -/
abbrev Byte := BitVec 8

/-- A word: 32 bits (R9). -/
abbrev Word := BitVec 32

/-- A digest: "a fixed 16-byte value" (00_scope.md glossary). -/
abbrev Digest := Vector Byte 16

end Sys2Proof
end

