-- ==== Sys2Proof/Config.lean ====
section
/-! DEFINITION. What is fixed when an engine is built (spec 00_scope.md R8), the constant registers
(10_state.md R21, R22) and the values the spec leaves open. -/

namespace Sys2Proof

/-- The capacities of the two input buffers (R8). They stand in `State` (as the contents of the CONFIG register,
10_state.md R23), so every statement about a state is a statement about every engine. -/
structure Params where
  /-- `PW_MAX`, the capacity of the password buffer in bytes. -/
  pwMax : Nat
  /-- `SALT_MAX`, the capacity of the salt buffer in bytes. -/
  saltMax : Nat
deriving DecidableEq, Repr

/-- The constraints of R8: `1 <= PW_MAX <= 65535` and `8 <= SALT_MAX <= 230`. -/
abbrev Params.Legal (p : Params) : Prop :=
  1 ≤ p.pwMax ∧ p.pwMax ≤ 65535 ∧ 8 ≤ p.saltMax ∧ p.saltMax ≤ 230

/-- The reference configuration of R8 (log entry 1). -/
def Params.reference : Params := ⟨256, 64⟩

/-- `ID`, "MD5C" (10_state.md R21). -/
def Config.id : Word := 0x4D443543

/-- `VERSION` 1.0 (10_state.md R22). -/
def Config.version : Word := 0x00010000

/-- OPEN parameter: which 512-byte slot of the bus address space the platform gives the window (R8, log entry 5). -/
opaque Config.baseSlot : Nat

/-- `BASE`, 512-byte aligned (R8). -/
def Config.base : Nat := 512 * Config.baseSlot

/-- Free value: the data a read returns that is in flight when reset falls, one for each such read
(93_implementation_defined.md I11, log entry 4). -/
opaque Config.inFlightRead : Nat → BitVec 32

end Sys2Proof
end

