-- ==== Sys2Proof/Syntax.lean ====
section
/-! DEFINITION. The operations of the engine: one constructor for each row of spec/opcode_table.json, and the
transfers of the register port that carry them (spec 30_encoding.md, 10_state.md R47). -/

namespace Sys2Proof

/-- The rows of the opcode table: the 17 BUS rows of 30_encoding.md R85, then the 4 CMD rows of R84. A write carries
its operand `wdata`, a row with several offsets the index its offset selects. -/
inductive Instr where
  /-- RD_ID, 40_host_access.md R101. -/
  | rdId
  /-- RD_VERSION, R102. -/
  | rdVersion
  /-- RD_CONFIG, R103. -/
  | rdConfig
  /-- RD_STATUS, R104. -/
  | rdStatus
  /-- WR_STATUS, R105. -/
  | wrStatus (wdata : Word)
  /-- RD_CTRL, R106. -/
  | rdCtrl
  /-- WR_CTRL, R107. -/
  | wrCtrl (wdata : Word)
  /-- WR_CMD, R108: a write of the command word `c`, legal or not. -/
  | wrCmd (c : Word)
  /-- RD_ERR_CODE, R109. -/
  | rdErrCode
  /-- RD_ERR_INFO, R110. -/
  | rdErrInfo
  /-- RD_PW_LEN, R111. -/
  | rdPwLen
  /-- RD_SALT_LEN, R112. -/
  | rdSaltLen
  /-- RD_RESULT_LEN, R113. -/
  | rdResultLen
  /-- RD_DIGEST, R114: word `k` of the digest buffer. -/
  | rdDigest (k : Nat)
  /-- WR_PW_PUSH, R115. -/
  | wrPwPush (wdata : Word)
  /-- WR_SALT_PUSH, R116. -/
  | wrSaltPush (wdata : Word)
  /-- RD_RESULT, R117: word `w` of the result buffer. -/
  | rdResult (w : Nat)
  /-- NOP, 41_commands.md R144. -/
  | nop
  /-- CRYPT, R141. -/
  | crypt
  /-- MD5, R142. -/
  | md5
  /-- CLEAR, R143. -/
  | clear
deriving DecidableEq, Repr

/-- The four defaults of 30_encoding.md R86, for a descriptor that matches no row. -/
inductive DefaultAccess where
  /-- A read of a reserved offset (40_host_access.md R118). -/
  | readReserved
  /-- A write to a reserved offset (R119). -/
  | writeReserved
  /-- A read of a write-only register (R120). -/
  | readWriteOnly
  /-- A write to a read-only register (R121). -/
  | writeReadOnly
deriving DecidableEq, Repr

/-- The two formats of 30_encoding.md R80. -/
inductive Encoded where
  /-- BUS: the descriptor of R81 and the write data, which is no part of it (unused by a read). -/
  | bus (desc : BitVec 10) (wdata : Word)
  /-- CMD: the data word of a write to CMD (R82). -/
  | cmd (c : Word)
deriving DecidableEq, Repr

/-- How wide a bus master asks an access to be (20_memory.md R64: the register port moves exactly 32 bits). -/
inductive AccessSize where
  | byte
  | half
  | word
deriving DecidableEq, Repr

/-- One transfer of the register port (10_state.md R47): the write flag and the offset are the descriptor's. -/
structure Transfer where
  size : AccessSize
  desc : BitVec 10
  wdata : Word
deriving DecidableEq, Repr

end Sys2Proof
end

