-- ==== Sys2Proof/WellFormed.lean ====
section
/-! DEFINITION. Which terms of `Instr` stand for an access the window has: the index of a view is in its range
(spec 40_host_access.md R114, R117). Every write data word is legal syntax (30_encoding.md R83). -/

namespace Sys2Proof

/-- `k` is 0 to 3 and `w` is 0 to 63; nothing else can be ill-formed. -/
def Instr.wellFormed : Instr → Bool
  | .rdDigest k => decide (k < 4)
  | .rdResult w => decide (w < 64)
  | .rdId | .rdVersion | .rdConfig | .rdStatus | .rdCtrl | .rdErrCode | .rdErrInfo => true
  | .rdPwLen | .rdSaltLen | .rdResultLen => true
  | .wrStatus _ | .wrCtrl _ | .wrCmd _ | .wrPwPush _ | .wrSaltPush _ => true
  | .nop | .crypt | .md5 | .clear => true

/-- The check as a proposition. -/
abbrev Instr.WellFormed (i : Instr) : Prop := i.wellFormed = true

end Sys2Proof
end

