-- ==== Sys2Proof/Decode.lean ====
section
/-! DEFINITION. Decoding of BUS descriptors and CMD words, and the encoder (spec 30_encoding.md R80 to R88). Both
decoders are total; what matches no row is named: a default access (R86) or an illegal command (R87). -/

namespace Sys2Proof

/-- What a descriptor stands for (R86). -/
inductive BusDecoded where
  | row (i : Instr)
  | unlisted (a : DefaultAccess)
deriving DecidableEq, Repr

/-- What a command word stands for (R84, R87). -/
inductive CmdDecoded where
  | row (i : Instr)
  | illegal
deriving DecidableEq, Repr

/-- A row of R85: the descriptor is selected if its bits under `mask` are `pat`. -/
structure BusRow where
  pat : BitVec 10
  mask : BitVec 10
  build : BitVec 10 → Word → Instr

/-- R85: "`match` and `mask` apply to the 10-bit descriptor of rule R81". -/
def BusRow.selects (r : BusRow) (d : BitVec 10) : Bool := d &&& r.mask == r.pat

/-- `OFF[3:2]`, the index k of RD_DIGEST (40_host_access.md R114). -/
def digestIndex (d : BitVec 10) : Nat := (d.extractLsb' 2 2).toNat

/-- `OFF[7:2]`, the index w of RD_RESULT (40_host_access.md R117). -/
def resultIndex (d : BitVec 10) : Nat := (d.extractLsb' 2 6).toNat

/-- The table of R85, row by row. -/
def busTable : List BusRow :=
  [⟨0x000, 0x3FC, fun _ _ => .rdId⟩,
   ⟨0x004, 0x3FC, fun _ _ => .rdVersion⟩,
   ⟨0x008, 0x3FC, fun _ _ => .rdConfig⟩,
   ⟨0x014, 0x3FC, fun _ _ => .rdStatus⟩,
   ⟨0x214, 0x3FC, fun _ v => .wrStatus v⟩,
   ⟨0x010, 0x3FC, fun _ _ => .rdCtrl⟩,
   ⟨0x210, 0x3FC, fun _ v => .wrCtrl v⟩,
   ⟨0x218, 0x3FC, fun _ v => .wrCmd v⟩,
   ⟨0x01C, 0x3FC, fun _ _ => .rdErrCode⟩] ++
  [⟨0x020, 0x3FC, fun _ _ => .rdErrInfo⟩,
   ⟨0x024, 0x3FC, fun _ _ => .rdPwLen⟩,
   ⟨0x028, 0x3FC, fun _ _ => .rdSaltLen⟩,
   ⟨0x02C, 0x3FC, fun _ _ => .rdResultLen⟩,
   ⟨0x040, 0x3F0, fun d _ => .rdDigest (digestIndex d)⟩,
   ⟨0x230, 0x3FC, fun _ v => .wrPwPush v⟩,
   ⟨0x234, 0x3FC, fun _ v => .wrSaltPush v⟩,
   ⟨0x100, 0x300, fun d _ => .rdResult (resultIndex d)⟩]

/-- Bit 9 of a descriptor, the write flag W (R81). -/
def isWrite (d : BitVec 10) : Bool := d.getLsbD 9

/-- The window offset of the addressed word: OFF[1:0] are ignored (R81, 20_memory.md R63). -/
def wordOffset (d : BitVec 10) : Nat := (d.extractLsb' 2 7).toNat * 4

/-- The write-only registers CMD, PW_PUSH, SALT_PUSH (10_state.md R26, R32, R33). -/
def isWriteOnly (off : Nat) : Bool := off == 0x018 || off == 0x030 || off == 0x034

/-- The read-only registers of 40_host_access.md R121: ID, VERSION, CONFIG, ERR_CODE, ERR_INFO, PW_LEN, SALT_LEN,
RESULT_LEN, DIGEST0 to DIGEST3, RESULT0 to RESULT63. -/
def isReadOnly (off : Nat) : Bool :=
  decide (off < 0x00C) || (decide (0x01C ≤ off) && decide (off < 0x030)) ||
    (decide (0x040 ≤ off) && decide (off < 0x050)) || decide (0x100 ≤ off)

/-- Which of R86's four defaults a descriptor that matches no row is. -/
def defaultOf (d : BitVec 10) : DefaultAccess :=
  if isWrite d then if isReadOnly (wordOffset d) then .writeReadOnly else .writeReserved
  else if isWriteOnly (wordOffset d) then .readWriteOnly else .readReserved

/-- R86: "The decoder is total." -/
def decodeBus (d : BitVec 10) (wdata : Word) : BusDecoded :=
  match busTable.find? (fun r => r.selects d) with
  | some r => .row (r.build d wdata)
  | none => .unlisted (defaultOf d)

/-- The CMD opcodes of R84 as whole words: with `RES = 0` (R82). -/
def cmdTable : List (Word × Instr) := [(0x0, .nop), (0x1, .crypt), (0x2, .md5), (0x3, .clear)]

/-- R84 and R87: any other word is illegal. -/
def decodeCmd (c : Word) : CmdDecoded :=
  match cmdTable.find? (fun r => r.1 == c) with
  | some r => .row r.2
  | none => .illegal

/-- The row a descriptor decodes to, if it matches one. -/
def BusDecoded.row? : BusDecoded → Option Instr
  | .row i => some i
  | .unlisted _ => none

/-- The row a command word decodes to, if it is legal. -/
def CmdDecoded.row? : CmdDecoded → Option Instr
  | .row i => some i
  | .illegal => none

/-- The row an encoded operation stands for, in either format. -/
def decode : Encoded → Option Instr
  | .bus d v => (decodeBus d v).row?
  | .cmd c => (decodeCmd c).row?

/-- The encoder, from the tables of R84 and R85; the ignored bits OFF[1:0] are 0, and so is the unused data of a
read. -/
def encode : Instr → Encoded
  | .rdId => .bus 0x000 0
  | .rdVersion => .bus 0x004 0
  | .rdConfig => .bus 0x008 0
  | .rdStatus => .bus 0x014 0
  | .wrStatus v => .bus 0x214 v
  | .rdCtrl => .bus 0x010 0
  | .wrCtrl v => .bus 0x210 v
  | .wrCmd c => .bus 0x218 c
  | .rdErrCode => .bus 0x01C 0
  | .rdErrInfo => .bus 0x020 0
  | .rdPwLen => .bus 0x024 0
  | .rdSaltLen => .bus 0x028 0
  | .rdResultLen => .bus 0x02C 0
  | .rdDigest k => .bus (BitVec.ofNat 10 (0x040 + 4 * k)) 0
  | .wrPwPush v => .bus 0x230 v
  | .wrSaltPush v => .bus 0x234 v
  | .rdResult w => .bus (BitVec.ofNat 10 (0x100 + 4 * w)) 0
  | .nop => .cmd 0x0
  | .crypt => .cmd 0x1
  | .md5 => .cmd 0x2
  | .clear => .cmd 0x3

/-- The transfer that carries an encoded operation: a CMD word is the data of a 32-bit write to CMD (R80). -/
def Encoded.transfer : Encoded → Transfer
  | .bus d v => ⟨.word, d, v⟩
  | .cmd c => ⟨.word, 0x218, c⟩

/-- The operation a row's bits give (log entry 6). 16 bits: the descriptor in bits 9:0, zeros above, and write data
0. 32 bits: a CMD word. 48 bits: the descriptor in the low 16 and the write data in the high 32. -/
def operationOfTableWord (nbits w : Nat) : Option Encoded :=
  if nbits ≤ 16 then
    if w < 1024 then some (.bus (BitVec.ofNat 10 w) 0) else none
  else if nbits = 32 then
    if w < 4294967296 then some (.cmd (BitVec.ofNat 32 w)) else none
  else if nbits = 48 then
    if w % 65536 < 1024 ∧ w / 65536 < 4294967296 then
      some (.bus (BitVec.ofNat 10 (w % 65536)) (BitVec.ofNat 32 (w / 65536)))
    else none
  else none

/-- What the decoder reads from the bits of one row of the opcode table. -/
def decodeTableWord (nbits w : Nat) : Option Instr := (operationOfTableWord nbits w).bind decode

end Sys2Proof
end

