-- ==== Sys2Proof/Machine/State.lean ====
section
/-! DEFINITION. The state of the engine, plain data: every piece of spec 10_state.md and 70_reset_and_hazards.md
R291, and the input the machine's environment still has for it. -/

namespace Sys2Proof.Machine

open Sys2Proof

/-- An internal byte store (20_memory.md R62): (index, byte) pairs with rising indexes and no zero byte listed. An
unlisted index reads 0, the reset contents of R291. -/
abbrev Memory := List Host.Cell

/-- The error causes of 60_exceptions.md R260; codes 0x05 to 0xFF are never produced. -/
inductive ErrCode where
  | none
  | illegalCmd
  | busy
  | pwOverflow
  | saltOverflow
deriving DecidableEq, Repr

/-- `STATUS.OP` (10_state.md R25): which operation started last; the value 3 is never produced. -/
inductive Op where
  | none
  | crypt
  | md5
deriving DecidableEq, Repr

/-- The stored flags of `STATUS` (R25); bit 3, IRQ, equals the interrupt line and is not stored. -/
structure Status where
  busy : Bool
  done : Bool
  err : Bool
  op : Op
  emult : Bool
deriving DecidableEq, Repr

/-- The interrupt enables of `CTRL` (R24). -/
structure Ctrl where
  ieDone : Bool
  ieErr : Bool
deriving DecidableEq, Repr

/-- The registers of the MD5 core (R41). -/
structure Md5Core where
  /-- `H[0..3]`, the chaining registers. -/
  h0 : Word
  h1 : Word
  h2 : Word
  h3 : Word
  /-- `A`, `B`, `C`, `D`, the working registers. -/
  a : Word
  b : Word
  c : Word
  d : Word
  /-- `BLK[0..63]`, the block buffer. -/
  blk : Vector Byte 64
  /-- `FILL`, the number of bytes in `BLK`. -/
  fill : BitVec 7
  /-- `MLEN`, the number of bytes absorbed since the last initialisation. -/
  mlen : BitVec 64
  /-- `T`, the compression step counter. -/
  t : BitVec 6
deriving DecidableEq, Repr

/-- The phases of the crypt sequencer (R42). -/
inductive Phase where
  | idle
  | alt
  | seed
  | round
  | encode
  | raw
deriving DecidableEq, Repr

/-- The engine's program counter `(phase, RIDX, SEG, POS)` (R42). -/
structure SeqPos where
  phase : Phase
  ridx : BitVec 10
  seg : Nat
  pos : BitVec 16
deriving DecidableEq, Repr

/-- One event of the machine's environment: whose step is next (R20, log entry 3). -/
inductive Event where
  /-- The host's access. -/
  | host (t : Transfer)
  /-- The engine agent advances its sequencer by one step, which no host observes (43_crypt_sequencer.md R209). -/
  | work
  /-- The engine agent's completion step (41_commands.md R146, R147). -/
  | complete
  /-- Reset is asserted (70_reset_and_hazards.md R290), with a read in flight or not
  (93_implementation_defined.md I11). -/
  | reset (readInFlight : Bool)
deriving DecidableEq, Repr

/-- The state. -/
structure State where
  /-- The capacities CONFIG reports (R23). -/
  params : Params
  /-- `CTRL` (R24). -/
  ctrl : Ctrl
  /-- `STATUS` (R25). -/
  status : Status
  /-- `ERR_CODE` (R27). -/
  errCode : ErrCode
  /-- `ERR_INFO` (R28). -/
  errInfo : Word
  /-- `PW_LEN` (R29). -/
  pwLen : BitVec 16
  /-- `SALT_LEN` (R30). -/
  saltLen : BitVec 16
  /-- `RESULT_LEN` (R31). -/
  resultLen : BitVec 16
  /-- `PW_BUF` (R37). -/
  pwBuf : Memory
  /-- `SALT_BUF` (R38). -/
  saltBuf : Memory
  /-- `DIGEST_BUF` (R39). -/
  digestBuf : Digest
  /-- `RESULT_BUF` (R39). -/
  resultBuf : Memory
  /-- `ALT_REG` (R40). -/
  altReg : Digest
  /-- `DIG_REG` (R40). -/
  digReg : Digest
  /-- The MD5 core (R41). -/
  core : Md5Core
  /-- The crypt sequencer's position (R42). -/
  seq : SeqPos
  /-- The data of the latest read (the port's rdata, R47; log entry 2). -/
  rdata : Word
  /-- The model's own: the events still to come (log entry 3). -/
  pending : List Event
  /-- The model's own: how many free values were used (log entry 4). -/
  freeCount : Nat
deriving DecidableEq, Repr

/-- No rule lets the engine stop: errors are recorded (60_exceptions.md R267, R270), no bus error exists
(10_state.md R47) and no computation fails (60_exceptions.md R266). So nothing raises a fault, and this type has no
constructor, which is safe. -/
inductive Fault
deriving DecidableEq, Repr

/-- Why the model gives no meaning to a step. -/
inductive Refusal where
  /-- Raised only by an arm of `exec` whose instruction has no meaning yet (none at present); safe. -/
  | notModelled (mnemonic : String)
  /-- Raised by the register port for an 8-bit or 16-bit access: "A model refuses such an access rather than guess a
  meaning" (20_memory.md R64); safe. -/
  | narrowAccess (size : AccessSize)
deriving DecidableEq, Repr

/-- 16 zero bytes. -/
def zeroDigest : Digest := Vector.replicate 16 0

/-- The MD5 core with every register 0 (R291). -/
def Md5Core.zero : Md5Core := ⟨0, 0, 0, 0, 0, 0, 0, 0, Vector.replicate 64 0, 0, 0, 0⟩

/-- The sequencer at `(IDLE, 0, 0, 0)` (R42). -/
def SeqPos.idle : SeqPos := ⟨.idle, 0, 0, 0⟩

/-- The reset state of R291, of an engine built with the parameters `p`. -/
def State.resetFor (p : Params) : State where
  params := p
  ctrl := ⟨false, false⟩
  status := ⟨false, false, false, .none, false⟩
  errCode := .none
  errInfo := 0
  pwLen := 0
  saltLen := 0
  resultLen := 0
  pwBuf := []
  saltBuf := []
  digestBuf := zeroDigest
  resultBuf := []
  altReg := zeroDigest
  digReg := zeroDigest
  core := .zero
  seq := .idle
  rdata := 0
  pending := []
  freeCount := 0

/-- The reset state of the reference configuration (00_scope.md R8, log entry 1). -/
def State.reset : State := State.resetFor Params.reference

end Sys2Proof.Machine
end

