-- ==== Sys2Proof/Machine/Flags.lean ====
section
/-! DEFINITION. The interrupt line (spec 60_exceptions.md R275) and the registers as words: the flags of STATUS and
CTRL, the error codes (10_state.md R23 to R27, 40_host_access.md R103 to R109). -/

namespace Sys2Proof.Machine

open Sys2Proof

/-- `irq = (STATUS.DONE & CTRL.IE_DONE) | (STATUS.ERR & CTRL.IE_ERR)`, a level (R275). -/
def State.irq (s : State) : Bool :=
  (s.status.done && s.ctrl.ieDone) || (s.status.err && s.ctrl.ieErr)

/-- A flag as a bit. -/
def bit (b : Bool) : BitVec 1 := BitVec.ofBool b

/-- `STATUS.OP[1:0]` (10_state.md R25). -/
def Op.bits : Op → BitVec 2
  | .none => 0
  | .crypt => 1
  | .md5 => 2

/-- `ERR_CODE[7:0]` (60_exceptions.md R260). -/
def ErrCode.bits : ErrCode → BitVec 8
  | .none => 0x00
  | .illegalCmd => 0x01
  | .busy => 0x02
  | .pwOverflow => 0x03
  | .saltOverflow => 0x04

/-- What a read of STATUS returns: `zext_32({EMULT, OP[1:0], irq, ERR, DONE, BUSY})` (40_host_access.md R104). -/
def State.statusWord (s : State) : Word :=
  (bit s.status.emult ++ s.status.op.bits ++ bit s.irq ++ bit s.status.err ++ bit s.status.done ++
    bit s.status.busy).setWidth 32

/-- What a read of CTRL returns: `zext_32({IE_ERR, IE_DONE})` (40_host_access.md R106). -/
def State.ctrlWord (s : State) : Word := (bit s.ctrl.ieErr ++ bit s.ctrl.ieDone).setWidth 32

/-- What a read of CONFIG returns: `{SALT_MAX[15:0], PW_MAX[15:0]}` (40_host_access.md R103). -/
def State.configWord (s : State) : Word :=
  BitVec.ofNat 16 s.params.saltMax ++ BitVec.ofNat 16 s.params.pwMax

end Sys2Proof.Machine
end

