-- ==== Sys2Proof/Machine/Ops.lean ====
section
/-! DEFINITION. The shared operations: byte stores, the register port's read data, recording an error (this engine's
exception entry, spec 60_exceptions.md R270) and clearing it (its return, R277), the reset step. -/

namespace Sys2Proof.Machine

open Sys2Proof

/-! ### Byte stores -/

/-- The byte at an index; an unlisted index reads 0. -/
def Memory.read : Memory → Nat → Byte
  | [], _ => 0
  | (a, b) :: m, x => if x = a then b else if x < a then 0 else Memory.read m x

/-- Put `v` in front of the cells that follow index `x`, unless it is what an unlisted index reads as. -/
def Memory.cons (x : Nat) (v : Byte) (m : Memory) : Memory := if v = 0 then m else (x, v) :: m

/-- Store one byte, keeping the canonical form. -/
def Memory.write : Memory → Nat → Byte → Memory
  | [], x, v => Memory.cons x v []
  | (a, b) :: m, x, v =>
    if x < a then Memory.cons x v ((a, b) :: m)
    else if x = a then Memory.cons x v m
    else (a, b) :: Memory.write m x v

/-- The store that holds a byte string from index `x` upward and 0 elsewhere. -/
def Memory.ofBytesFrom : Nat → List Byte → Memory
  | _, [] => []
  | x, b :: bs => Memory.cons x b (Memory.ofBytesFrom (x + 1) bs)

/-- The store that holds a byte string from index 0 upward and 0 elsewhere. -/
def Memory.ofBytes (bs : List Byte) : Memory := Memory.ofBytesFrom 0 bs

/-- The canonical form: indexes strictly rise and no listed byte is 0. -/
def Memory.wf : Memory → Bool
  | [] => true
  | (a, b) :: m => b != 0 && m.all (fun c => decide (a < c.1)) && Memory.wf m

/-- The bytes `[0..n)` of a store, "`BUF[0..n)`" (00_scope.md R10). -/
def Memory.bytes (m : Memory) (n : Nat) : List Byte := (List.range n).map m.read

/-- Four bytes as a word, the first in the lowest bits (20_memory.md R65). -/
def littleEndian (b0 b1 b2 b3 : Byte) : Word := b3 ++ b2 ++ b1 ++ b0

/-- Byte `i` of a digest. -/
def digestByte (d : Digest) (i : Nat) : Byte := d[i]?.getD 0

/-! ### The inputs and the result as byte strings -/

/-- The password of an operation, `PW_BUF[0..PW_LEN)` (10_state.md R37). -/
def State.password (s : State) : List Byte := s.pwBuf.bytes s.pwLen.toNat

/-- The salt of an operation, `SALT_BUF[0..SALT_LEN)` (10_state.md R38). -/
def State.salt (s : State) : List Byte := s.saltBuf.bytes s.saltLen.toNat

/-- The result string, `RESULT_BUF[0..RESULT_LEN)` (10_state.md R31, R35). -/
def State.result (s : State) : List Byte := s.resultBuf.bytes s.resultLen.toNat

/-! ### The register port -/

/-- A read returns `v` and changes nothing else (20_memory.md R68). -/
def State.respond (s : State) (v : Word) : State := { s with rdata := v }

/-! ### Recording an error, and clearing the record -/

/-- `raise Error(code, info)` of 60_exceptions.md R270: the first error is recorded, a later one only sets EMULT. It
changes nothing else (R274). -/
def State.raiseError (s : State) (code : ErrCode) (info : Word) : State :=
  if s.status.err then { s with status := { s.status with emult := true } }
  else { s with status := { s.status with err := true }, errCode := code, errInfo := info }

/-- Clearing ERR clears EMULT, ERR_CODE and ERR_INFO with it (40_host_access.md R105, 60_exceptions.md R271); this is
the engine's "return" (R277). -/
def State.clearError (s : State) : State :=
  { s with status := { s.status with err := false, emult := false }, errCode := .none, errInfo := 0 }

/-- Clearing DONE (40_host_access.md R105). -/
def State.clearDone (s : State) : State := { s with status := { s.status with done := false } }

/-! ### Reset -/

/-- The reset step of 70_reset_and_hazards.md R290: every piece of state takes its value of R291, whatever it was. The
capacities are constants (R294). The events still to come and the data of reads already returned are the
environment's; a read in flight returns any value (93_implementation_defined.md I11, log entry 4). -/
def State.applyReset (s : State) (readInFlight : Bool) : State :=
  { State.resetFor s.params with
    rdata := if readInFlight then Config.inFlightRead s.freeCount else s.rdata
    pending := s.pending
    freeCount := if readInFlight then s.freeCount + 1 else s.freeCount }

end Sys2Proof.Machine
end

