-- ==== Sys2Proof/Machine/HostReads.lean ====
section
/-! DEFINITION. The reads of the register window (spec 40_host_access.md R101 to R104, R106, R109 to R114, R117). A
read returns the register as it stands before the access (R100), raises no error (60_exceptions.md R267) and changes
nothing (20_memory.md R68). -/

namespace Sys2Proof.Machine

open Sys2Proof

/-- The outcome of every access: no rule lets one stop. -/
abbrev Out := Host.Outcome State Fault Refusal

/-- RD_ID (R101). -/
def execRdId (s : State) : Out := .next (s.respond Config.id)

/-- RD_VERSION (R102). -/
def execRdVersion (s : State) : Out := .next (s.respond Config.version)

/-- RD_CONFIG (R103). -/
def execRdConfig (s : State) : Out := .next (s.respond s.configWord)

/-- RD_STATUS (R104). -/
def execRdStatus (s : State) : Out := .next (s.respond s.statusWord)

/-- RD_CTRL (R106). -/
def execRdCtrl (s : State) : Out := .next (s.respond s.ctrlWord)

/-- RD_ERR_CODE (R109): `zext_32(ERR_CODE[7:0])`. -/
def execRdErrCode (s : State) : Out := .next (s.respond (s.errCode.bits.setWidth 32))

/-- RD_ERR_INFO (R110). -/
def execRdErrInfo (s : State) : Out := .next (s.respond s.errInfo)

/-- RD_PW_LEN (R111): `zext_32(PW_LEN[15:0])`. -/
def execRdPwLen (s : State) : Out := .next (s.respond (s.pwLen.setWidth 32))

/-- RD_SALT_LEN (R112). -/
def execRdSaltLen (s : State) : Out := .next (s.respond (s.saltLen.setWidth 32))

/-- RD_RESULT_LEN (R113). -/
def execRdResultLen (s : State) : Out := .next (s.respond (s.resultLen.setWidth 32))

/-- RD_DIGEST (R114): `{DIGEST_BUF[4k+3], DIGEST_BUF[4k+2], DIGEST_BUF[4k+1], DIGEST_BUF[4k]}`. -/
def execRdDigest (k : Nat) (s : State) : Out :=
  .next (s.respond (littleEndian (digestByte s.digestBuf (4 * k)) (digestByte s.digestBuf (4 * k + 1))
    (digestByte s.digestBuf (4 * k + 2)) (digestByte s.digestBuf (4 * k + 3))))

/-- RD_RESULT (R117): `{RESULT_BUF[4w+3], RESULT_BUF[4w+2], RESULT_BUF[4w+1], RESULT_BUF[4w]}`. -/
def execRdResult (w : Nat) (s : State) : Out :=
  .next (s.respond (littleEndian (s.resultBuf.read (4 * w)) (s.resultBuf.read (4 * w + 1))
    (s.resultBuf.read (4 * w + 2)) (s.resultBuf.read (4 * w + 3))))

end Sys2Proof.Machine
end

