-- ==== Sys2Proof/Machine/Defaults.lean ====
section
/-! DEFINITION. The accesses that match no row of the opcode table (spec 30_encoding.md R86, 40_host_access.md R118 to
R121): reads return 0, writes are ignored, and no error is raised. -/

namespace Sys2Proof.Machine

open Sys2Proof

/-- A read of a reserved offset returns 0 (R118). -/
def execReadReserved (s : State) : Out := .next (s.respond 0)

/-- A write to a reserved offset is ignored, even while BUSY (R119). -/
def execWriteReserved (s : State) : Out := .next s

/-- A read of a write-only register returns 0 (R120). -/
def execReadWriteOnly (s : State) : Out := .next (s.respond 0)

/-- A write to a read-only register is ignored (R121). -/
def execWriteReadOnly (s : State) : Out := .next s

/-- The four defaults of 30_encoding.md R86. -/
def execDefault (a : DefaultAccess) (s : State) : Out :=
  match a with
  | .readReserved => execReadReserved s
  | .writeReserved => execWriteReserved s
  | .readWriteOnly => execReadWriteOnly s
  | .writeReadOnly => execWriteReadOnly s

end Sys2Proof.Machine
end

