-- ==== Sys2Proof/Machine/Md5.lean ====
section
/-! DEFINITION. The MD5 state machine (spec 42_md5_core.md): its tables, its micro-operations on the registers of the
core, and the function MD5 they compute. No host operation reaches the micro-operations directly (30_encoding.md
R89). -/

namespace Sys2Proof.Machine

open Sys2Proof

/-! ### Read-only tables -/

/-- `K_ROM` (R161). -/
def kRom : List Word :=
  [0xD76AA478, 0xE8C7B756, 0x242070DB, 0xC1BDCEEE, 0xF57C0FAF, 0x4787C62A, 0xA8304613, 0xFD469501,
   0x698098D8, 0x8B44F7AF, 0xFFFF5BB1, 0x895CD7BE, 0x6B901122, 0xFD987193, 0xA679438E, 0x49B40821] ++
  [0xF61E2562, 0xC040B340, 0x265E5A51, 0xE9B6C7AA, 0xD62F105D, 0x02441453, 0xD8A1E681, 0xE7D3FBC8,
   0x21E1CDE6, 0xC33707D6, 0xF4D50D87, 0x455A14ED, 0xA9E3E905, 0xFCEFA3F8, 0x676F02D9, 0x8D2A4C8A] ++
  [0xFFFA3942, 0x8771F681, 0x6D9D6122, 0xFDE5380C, 0xA4BEEA44, 0x4BDECFA9, 0xF6BB4B60, 0xBEBFBC70,
   0x289B7EC6, 0xEAA127FA, 0xD4EF3085, 0x04881D05, 0xD9D4D039, 0xE6DB99E5, 0x1FA27CF8, 0xC4AC5665] ++
  [0xF4292244, 0x432AFF97, 0xAB9423A7, 0xFC93A039, 0x655B59C3, 0x8F0CCC92, 0xFFEFF47D, 0x85845DD1,
   0x6FA87E4F, 0xFE2CE6E0, 0xA3014314, 0x4E0811A1, 0xF7537E82, 0xBD3AF235, 0x2AD7D2BB, 0xEB86D391]

/-- The four rows of rotation amounts (R162). -/
def rotationRows : List (List Nat) := [[7, 12, 17, 22], [5, 9, 14, 20], [4, 11, 16, 23], [6, 10, 15, 21]]

/-- `S_ROM[i] = R[i div 16][i mod 4]` (R162). -/
def sRom (i : Nat) : Nat := (rotationRows.getD (i / 16) []).getD (i % 4) 0

/-- The message index `g(i)` (R163). -/
def messageIndex (i : Nat) : Nat :=
  if i < 16 then i
  else if i < 32 then (5 * i + 1) % 16
  else if i < 48 then (3 * i + 5) % 16
  else (7 * i) % 16

/-- The nonlinear function `FN(i, B, C, D)` (R164). -/
def roundFunction (i : Nat) (b c d : Word) : Word :=
  if i < 16 then (b &&& c) ||| (~~~b &&& d)
  else if i < 32 then (b &&& d) ||| (c &&& ~~~d)
  else if i < 48 then b ^^^ c ^^^ d
  else c ^^^ (b ||| ~~~d)

/-- `rotl32(x, s) = ((x << s) | (x >> (32 - s))) mod 2^32` (R170). -/
def rotl32 (x : Word) (n : Nat) : Word := (x <<< n) ||| (x >>> (32 - n))

/-! ### Compression -/

/-- Byte `i` of the block buffer. -/
def Md5Core.blockByte (m : Md5Core) (i : Nat) : Byte := m.blk[i]?.getD 0

/-- `M[j]`, word `j` of the block buffer, little-endian (R165). -/
def Md5Core.blockWord (m : Md5Core) (j : Nat) : Word :=
  littleEndian (m.blockByte (4 * j)) (m.blockByte (4 * j + 1)) (m.blockByte (4 * j + 2)) (m.blockByte (4 * j + 3))

/-- The sum of step i before the rotation, `A +32 f +32 K_ROM[i] +32 M[g(i)]` with `i = T` (R166). -/
def Md5Core.stepSum (m : Md5Core) : Word :=
  m.a + roundFunction m.t.toNat m.b m.c m.d + kRom.getD m.t.toNat 0 + m.blockWord (messageIndex m.t.toNat)

/-- MD5_STEP(i) with `i = T` (R166); `T` counts modulo 64. -/
def md5Step (m : Md5Core) : Md5Core :=
  { m with a := m.d, b := m.b + rotl32 m.stepSum (sRom m.t.toNat), c := m.b, d := m.c, t := m.t + 1 }

/-- `n` compression steps in order. -/
def md5Steps : Nat → Md5Core → Md5Core
  | 0, m => m
  | n + 1, m => md5Step (md5Steps n m)

/-- The working registers take the chaining values and `T` is 0 (R167). -/
def Md5Core.loadWorking (m : Md5Core) : Md5Core := { m with a := m.h0, b := m.h1, c := m.h2, d := m.h3, t := 0 }

/-- The chaining registers take the sums, and the block is empty (R167). -/
def Md5Core.addWorking (m : Md5Core) : Md5Core :=
  { m with h0 := m.h0 + m.a, h1 := m.h1 + m.b, h2 := m.h2 + m.c, h3 := m.h3 + m.d, fill := 0 }

/-- MD5_COMPRESS (R167): `MD5_STEP(0)` to `MD5_STEP(63)` between the two. -/
def md5Compress (m : Md5Core) : Md5Core := (md5Steps 64 m.loadWorking).addWorking

/-! ### Absorb and finalise -/

/-- MD5_INIT, with `IV_ROM` (R180, R160); the block buffer keeps its bytes. -/
def md5Init (m : Md5Core) : Md5Core :=
  { m with
    h0 := 0x67452301, h1 := 0xEFCDAB89, h2 := 0x98BADCFE, h3 := 0x10325476
    a := 0, b := 0, c := 0, d := 0, fill := 0, mlen := 0, t := 0 }

/-- `BLK[FILL] <- x; FILL <- FILL + 1`. -/
def Md5Core.putByte (m : Md5Core) (x : Byte) : Md5Core :=
  { m with blk := m.blk.setIfInBounds m.fill.toNat x, fill := m.fill + 1 }

/-- `if FILL = 64 then MD5_COMPRESS`. -/
def Md5Core.compressIfFull (m : Md5Core) : Md5Core := if m.fill = 64 then md5Compress m else m

/-- MD5_ABSORB(x) (R181). -/
def md5Absorb (m : Md5Core) (x : Byte) : Md5Core :=
  ({ m.putByte x with mlen := m.mlen + 1 }).compressIfFull

/-- `L = (8 * MLEN) mod 2^64`, the bit length of the message (R182). -/
def Md5Core.bitLength (m : Md5Core) : BitVec 64 := 8 * m.mlen

/-- `n` zero bytes put into the block buffer. -/
def Md5Core.putZeros : Nat → Md5Core → Md5Core
  | 0, m => m
  | n + 1, m => Md5Core.putZeros n (m.putByte 0)

/-- The zero fill of R183: an extra block if FILL is above 56, then zeros up to 56. -/
def Md5Core.zeroFill (m : Md5Core) : Md5Core :=
  let m := if 56 < m.fill.toNat then md5Compress (m.putZeros (64 - m.fill.toNat)) else m
  m.putZeros (56 - m.fill.toNat)

/-- `BLK[56 + j] <- L[8j+7 : 8j]` for j in 0 .. 7 (R184). -/
def Md5Core.putLength (m : Md5Core) (l : BitVec 64) : Md5Core :=
  { m with blk := (List.range 8).foldl (fun b j => b.setIfInBounds (56 + j) (l.extractLsb' (8 * j) 8)) m.blk }

/-- MD5_FINAL (R182 to R184): the pad byte, the zero fill, the length, each with its compression. The length is taken
before the pad byte. -/
def md5Final (m : Md5Core) : Md5Core :=
  md5Compress (((m.putByte 0x80).compressIfFull.zeroFill).putLength m.bitLength)

/-- Byte j of a chaining word, `H[k][8j+7 : 8j]` (R188). -/
def wordByte (x : Word) (j : Nat) : Byte := x.extractLsb' (8 * j) 8

/-- The digest: the four chaining words, each little-endian (R188). -/
def Md5Core.digest (m : Md5Core) : Digest :=
  #v[wordByte m.h0 0, wordByte m.h0 1, wordByte m.h0 2, wordByte m.h0 3,
     wordByte m.h1 0, wordByte m.h1 1, wordByte m.h1 2, wordByte m.h1 3,
     wordByte m.h2 0, wordByte m.h2 1, wordByte m.h2 2, wordByte m.h2 3,
     wordByte m.h3 0, wordByte m.h3 1, wordByte m.h3 2, wordByte m.h3 3]

/-- One whole digest computation, from whatever the core holds: MD5_INIT, MD5_ABSORB of each byte, MD5_FINAL. -/
def md5Run (m : Md5Core) (bs : List Byte) : Md5Core := md5Final (bs.foldl md5Absorb (md5Init m))

/-- `MD5(s)` (R190). -/
def md5 (bs : List Byte) : Digest := (md5Run .zero bs).digest

end Sys2Proof.Machine
end

