-- ==== Sys2Proof/Machine/Sequencer.lean ====
section
/-! DEFINITION. The seed-buffer mixer (spec 43_crypt_sequencer.md): the byte strings of each phase and the value of a
CRYPT operation (R201 to R208), and the streams of segments the sequencer feeds to the MD5 core (R200). -/

namespace Sys2Proof.Machine

open Sys2Proof

/-- `MAGIC_ROM`, the bytes of `$1$` (R202). -/
def magicRom : List Byte := [0x24, 0x31, 0x24]

/-! ### The values -/

/-- altDigest (R201). -/
def altDigest (pw salt : List Byte) : Digest := md5 (pw ++ salt ++ pw)

/-- ALTCYC: `n` bytes cycling through a digest (R204). -/
def altCycle (alt : Digest) (n : Nat) : List Byte := (List.range n).map (fun i => digestByte alt (i % 16))

/-- The loop of R205 on what is left of the length, with a bound on its length. -/
def lengthBits (first : Byte) : Nat → Nat → List Byte
  | 0, _ => []
  | bound + 1, m =>
    if m = 0 then [] else (if m % 2 = 1 then 0x00 else first) :: lengthBits first bound (m / 2)

/-- LENBITS(pw): the bits of the length, least significant first, up to the highest set bit (R205). -/
def lenBits (pw : List Byte) : List Byte := lengthBits (pw.getD 0 0) pw.length pw.length

/-- The seed (R203). -/
def seedBytes (pw salt : List Byte) (alt : Digest) : List Byte :=
  pw ++ magicRom ++ salt ++ altCycle alt pw.length ++ lenBits pw

/-- The accumulator of round `i` (R207, R208). -/
def roundBytes (pw salt : List Byte) (i : Nat) (d : Digest) : List Byte :=
  (if i % 2 = 1 then pw else d.toList) ++ (if i % 3 ≠ 0 then salt else []) ++
    (if i % 7 ≠ 0 then pw else []) ++ (if i % 2 = 1 then d.toList else pw)

/-- The digest after the seed and `k` rounds: digest0 (R206) for `k = 0`. -/
def mixedDigest (pw salt : List Byte) : Nat → Digest
  | 0 => md5 (seedBytes pw salt (altDigest pw salt))
  | k + 1 => md5 (roundBytes pw salt k (mixedDigest pw salt k))

/-- `FinalDigest(pw, salt)`, after round 999 (R208). -/
def finalDigest (pw salt : List Byte) : Digest := mixedDigest pw salt 1000

/-- The MD5 core as round 999 leaves it (log entry 7). -/
def finalCore (pw salt : List Byte) : Md5Core :=
  md5Run .zero (roundBytes pw salt 999 (mixedDigest pw salt 999))

/-! ### The streams -/

/-- The segments of R200. -/
inductive Segment where
  | pw
  | salt
  | magic
  | dig
  | altcyc
  | lenbits
deriving DecidableEq, Repr

/-- Where the bytes of the segments come from. -/
structure Sources where
  pw : List Byte
  salt : List Byte
  alt : Digest
  dig : Digest

/-- The bytes of a segment (the table of R200). -/
def Sources.segment (src : Sources) : Segment → List Byte
  | .pw => src.pw
  | .salt => src.salt
  | .magic => magicRom
  | .dig => src.dig.toList
  | .altcyc => altCycle src.alt src.pw.length
  | .lenbits => lenBits src.pw

/-- The stream of round `i` (R207). -/
def roundSegments (i : Nat) : List Segment :=
  [if i % 2 = 1 then .pw else .dig] ++ (if i % 3 ≠ 0 then [.salt] else []) ++
    (if i % 7 ≠ 0 then [.pw] else []) ++ [if i % 2 = 1 then .dig else .pw]

/-- The stream of each phase: R201, R203, R207, R212. ENCODE and IDLE hash nothing. -/
def SeqPos.segments (p : SeqPos) : List Segment :=
  match p.phase with
  | .alt => [.pw, .salt, .pw]
  | .seed => [.pw, .magic, .salt, .altcyc, .lenbits]
  | .round => roundSegments p.ridx.toNat
  | .raw => [.pw]
  | .idle | .encode => []

/-- The bytes of a whole stream, in order (R200, R211). -/
def Sources.stream (src : Sources) (segs : List Segment) : List Byte := segs.flatMap src.segment

end Sys2Proof.Machine
end

