-- ==== Sys2Proof/Machine/Encoder.lean ====
section
/-! DEFINITION. The digest permutation encoder and the alphabet ROM (spec 44_encoder.md). -/

namespace Sys2Proof.Machine

open Sys2Proof

/-- `PERM_ROM` (R230). -/
def permRom : List Nat := [11, 4, 10, 5, 3, 9, 15, 2, 8, 14, 1, 7, 13, 0, 6, 12]

/-- PERMUTE: `permuted[j] = fd[PERM_ROM[j]]` (R231). -/
def permute (fd : Digest) : List Byte := permRom.map (digestByte fd)

/-- The bits of a byte, least significant first. -/
def byteBits (x : Byte) : List Bool := (List.range 8).map x.getLsbD

/-- SERIALIZE: the bytes from index 15 down to 0, each least significant bit first (R233). -/
def serialize (permuted : List Byte) : List Bool := permuted.reverse.flatMap byteBits

/-- `v[g]`: the bits `b[6g .. 6g+5]`, those of index 128 and above left out, the first the least significant (R234,
R235). -/
def groupValue (b : List Bool) (g : Nat) : Nat :=
  ((List.range 6).map (fun t => if b.getD (6 * g + t) false then 2 ^ t else 0)).sum

/-- `ALPHA_ROM` (R240). -/
def alphaRom : List Byte :=
  [0x2E, 0x2F, 0x30, 0x31, 0x32, 0x33, 0x34, 0x35, 0x36, 0x37, 0x38, 0x39, 0x41, 0x42, 0x43, 0x44] ++
  [0x45, 0x46, 0x47, 0x48, 0x49, 0x4A, 0x4B, 0x4C, 0x4D, 0x4E, 0x4F, 0x50, 0x51, 0x52, 0x53, 0x54] ++
  [0x55, 0x56, 0x57, 0x58, 0x59, 0x5A, 0x61, 0x62, 0x63, 0x64, 0x65, 0x66, 0x67, 0x68, 0x69, 0x6A] ++
  [0x6B, 0x6C, 0x6D, 0x6E, 0x6F, 0x70, 0x71, 0x72, 0x73, 0x74, 0x75, 0x76, 0x77, 0x78, 0x79, 0x7A]

/-- `Encode(fd)`: character g is `ALPHA_ROM[v[g]]`, for g = 0 to 21 (R241, R242). -/
def encodeBody (fd : Digest) : List Byte :=
  (List.range 22).map (fun g => alphaRom.getD (groupValue (serialize (permute fd)) g) 0)

/-- The separator `$` (R245). -/
def separator : Byte := 0x24

/-- `EncodedHash(salt, fd)`: the magic, the salt, `$`, the body (R245). -/
def encodedHash (salt : List Byte) (fd : Digest) : List Byte :=
  magicRom ++ salt ++ [separator] ++ encodeBody fd

/-- ASSEMBLE: what `RESULT_BUF` holds, the string from byte 0 and zeros after it in its 256 bytes (R246). -/
def assemble (s : List Byte) : Memory := Memory.ofBytes (s.take 256)

end Sys2Proof.Machine
end

