-- ==== Sys2Proof/Machine/Engine.lean ====
section
/-! DEFINITION. The engine agent: the start of an operation (spec 41_commands.md R141, R142), the sequencer's own
steps (43_crypt_sequencer.md R209, R212) and the completion steps (41_commands.md R146, R147). -/

namespace Sys2Proof.Machine

open Sys2Proof

/-! ### Start -/

/-- The start of an operation: BUSY to 1, DONE to 0, OP set, the results zeroed, the sequencer at the start of the
operation's first phase (R141, R142). -/
def State.startOperation (s : State) (op : Op) (first : Phase) : State :=
  { s with
    status := { s.status with busy := true, done := false, op := op }
    digestBuf := zeroDigest
    resultBuf := []
    resultLen := 0
    seq := ⟨first, 0, 0, 0⟩ }

/-! ### The sequencer's own steps -/

/-- What the segments read: the input buffers and the digest registers as they stand (43 R200, R210). -/
def State.sources (s : State) : Sources := ⟨s.password, s.salt, s.altReg, s.digReg⟩

/-- MD5_INIT before the first byte of a stream (42 R180), which is the step at `(SEG, POS) = (0, 0)`. -/
def State.initStream (s : State) : State :=
  if s.seq.seg = 0 ∧ s.seq.pos = 0 then { s with core := md5Init s.core } else s

/-- The end of a stream: MD5_FINAL, the digest into the phase's register, and the next phase (43 R209). In RAW the
completion step does both, so the sequencer waits there (R212); in ENCODE it waits for the completion too. -/
def State.endStream (s : State) : State :=
  let core := md5Final s.core
  match s.seq.phase with
  | .alt => { s with core := core, altReg := core.digest, seq := ⟨.seed, 0, 0, 0⟩ }
  | .seed => { s with core := core, digReg := core.digest, seq := ⟨.round, 0, 0, 0⟩ }
  | .round =>
    { s with
      core := core
      digReg := core.digest
      seq := if s.seq.ridx.toNat < 999 then ⟨.round, s.seq.ridx + 1, 0, 0⟩ else ⟨.encode, s.seq.ridx, 0, 0⟩ }
  | .idle | .encode | .raw => s

/-- One step inside a stream: absorb the byte at `(SEG, POS)`, or go on to the next segment, or end the stream. -/
def State.streamStep (s : State) : State :=
  match s.seq.segments[s.seq.seg]? with
  | some g =>
    match (s.sources.segment g)[s.seq.pos.toNat]? with
    | some x => { s with core := md5Absorb s.core x, seq := { s.seq with pos := s.seq.pos + 1 } }
    | none => { s with seq := { s.seq with seg := s.seq.seg + 1, pos := 0 } }
  | none => s.endStream

/-- One step of the sequencer of a running operation; only a phase that hashes a stream has one (43 R209, R212). -/
def State.work (s : State) : State :=
  if s.status.busy then
    match s.seq.phase with
    | .idle | .encode => s
    | .alt | .seed | .round | .raw => s.initStream.streamStep
  else s

/-! ### Completion -/

/-- What both completions do to STATUS and to the sequencer: BUSY to 0, DONE to 1, OP kept, `(IDLE, 0, 0, 0)`. -/
def State.finish (s : State) : State :=
  { s with status := { s.status with busy := false, done := true }, seq := .idle }

/-- CRYPT completion (R146): the digest and the result string of the inputs. The datapath registers hold what the
operation's last digests leave in them (log entry 7). -/
def State.completeCrypt (s : State) : State :=
  let fd := finalDigest s.password s.salt
  let str := encodedHash s.salt fd
  { s with
    digestBuf := fd
    resultBuf := assemble str
    resultLen := BitVec.ofNat 16 str.length
    altReg := altDigest s.password s.salt
    digReg := fd
    core := finalCore s.password s.salt }.finish

/-- MD5 completion (R147): the digest of the password buffer; the result string stays empty. -/
def State.completeMd5 (s : State) : State :=
  { s with digestBuf := md5 s.password, core := md5Run .zero s.password }.finish

/-- The completion step, which is enabled while an operation runs (R146, R147, R148); where it is not enabled the
engine agent does nothing. -/
def State.complete (s : State) : State :=
  if s.status.busy then
    match s.status.op with
    | .crypt => s.completeCrypt
    | .md5 => s.completeMd5
    | .none => s
  else s

end Sys2Proof.Machine
end

