-- ==== Sys2Proof/Machine/Operands.lean ====
section
/-! DEFINITION. The operand fields of `wdata` (spec 30_encoding.md R83) and the information words an error records
(60_exceptions.md R261). -/

namespace Sys2Proof.Machine

open Sys2Proof

/-- The byte a push port takes: `wdata[7:0]`; `wdata[31:8]` are ignored. -/
def pushByte (wdata : Word) : Byte := wdata.extractLsb' 0 8

/-- `CTRL` takes `wdata[0]` as IE_DONE and `wdata[1]` as IE_ERR; `wdata[31:2]` are ignored. -/
def ctrlOperand (wdata : Word) : Ctrl := ⟨wdata.getLsbD 0, wdata.getLsbD 1⟩

/-- `STATUS` takes `wdata[1]` as the clear bit of DONE. -/
def clearsDone (wdata : Word) : Bool := wdata.getLsbD 1

/-- `STATUS` takes `wdata[2]` as the clear bit of ERR. -/
def clearsErr (wdata : Word) : Bool := wdata.getLsbD 2

/-- `OP`, bits 3:0 of a command word (R82). -/
def cmdOp (c : Word) : BitVec 4 := c.extractLsb' 0 4

/-- `RES`, bits 31:4 of a command word (R82). -/
def cmdRes (c : Word) : BitVec 28 := c.extractLsb' 4 28

/-- The BUSY information `{8'h00, wdata[7:0], OFF[15:0]}` (60_exceptions.md R261). -/
def busyInfo (wdata : Word) (off : BitVec 16) : Word := (0 : BitVec 8) ++ wdata.extractLsb' 0 8 ++ off

/-- The overflow information `zext_32(wdata[7:0])` (60_exceptions.md R261). -/
def overflowInfo (wdata : Word) : Word := (pushByte wdata).setWidth 32

end Sys2Proof.Machine
end

