-- ==== Sys2Proof/Machine/HostWrites.lean ====
section
/-! DEFINITION. The writes of STATUS, CTRL and the push ports (spec 40_host_access.md R105, R107, R115, R116). -/

namespace Sys2Proof.Machine

open Sys2Proof

/-- WR_STATUS (R105): write one to clear. -/
def execWrStatus (wdata : Word) (s : State) : Out :=
  let s := if clearsDone wdata then s.clearDone else s
  .next (if clearsErr wdata then s.clearError else s)

/-- WR_CTRL (R107), accepted while BUSY too. -/
def execWrCtrl (wdata : Word) (s : State) : Out := .next { s with ctrl := ctrlOperand wdata }

/-- `PW_BUF[PW_LEN] <- x; PW_LEN <- PW_LEN + 1` (R115). -/
def State.appendPw (s : State) (x : Byte) : State :=
  { s with pwBuf := s.pwBuf.write s.pwLen.toNat x, pwLen := s.pwLen + 1 }

/-- `SALT_BUF[SALT_LEN] <- x; SALT_LEN <- SALT_LEN + 1` (R116). -/
def State.appendSalt (s : State) (x : Byte) : State :=
  { s with saltBuf := s.saltBuf.write s.saltLen.toNat x, saltLen := s.saltLen + 1 }

/-- WR_PW_PUSH (R115): BUSY is checked first, then the capacity (60_exceptions.md R272). -/
def execWrPwPush (wdata : Word) (s : State) : Out :=
  .next
    (if s.status.busy then s.raiseError .busy (busyInfo wdata 0x0030)
     else if s.pwLen.toNat = s.params.pwMax then s.raiseError .pwOverflow (overflowInfo wdata)
     else s.appendPw (pushByte wdata))

/-- WR_SALT_PUSH (R116): BUSY is checked first, then the capacity (60_exceptions.md R272). -/
def execWrSaltPush (wdata : Word) (s : State) : Out :=
  .next
    (if s.status.busy then s.raiseError .busy (busyInfo wdata 0x0034)
     else if s.saltLen.toNat = s.params.saltMax then s.raiseError .saltOverflow (overflowInfo wdata)
     else s.appendSalt (pushByte wdata))

end Sys2Proof.Machine
end

