-- ==== Sys2Proof/Machine/Commands.lean ====
section
/-! DEFINITION. The commands (spec 41_commands.md R140 to R145). A CMD row's meaning is that of a write of its word to
CMD. -/

namespace Sys2Proof.Machine

open Sys2Proof

/-- A command that is refused while an operation runs: it raises BUSY with the information of its word
(R140, 60_exceptions.md R263). -/
def State.unlessBusy (s : State) (c : Word) (idle : State) : State :=
  if s.status.busy then s.raiseError .busy (busyInfo c 0x0018) else idle

/-- What CLEAR zeroes (R143): the buffers, the lengths, the results, the flags, the error record and the datapath
registers of 10_state.md R40; CTRL is unchanged. -/
def State.clearAll (s : State) : State :=
  { s with
    pwBuf := [], pwLen := 0, saltBuf := [], saltLen := 0
    digestBuf := zeroDigest, resultBuf := [], resultLen := 0
    status := { s.status with done := false, err := false, emult := false, op := .none }
    errCode := .none, errInfo := 0
    altReg := zeroDigest, digReg := zeroDigest, core := .zero, seq := .idle }

/-- NOP (R144): no state changes, even while BUSY. -/
def execNop (s : State) : Out := .next s

/-- CRYPT (R141): start at phase ALT. -/
def execCrypt (s : State) : Out := .next (s.unlessBusy 0x1 (s.startOperation .crypt .alt))

/-- MD5 (R142): start at phase RAW. -/
def execMd5 (s : State) : Out := .next (s.unlessBusy 0x2 (s.startOperation .md5 .raw))

/-- CLEAR (R143). -/
def execClear (s : State) : Out := .next (s.unlessBusy 0x3 s.clearAll)

/-- WR_CMD (40_host_access.md R108): `Command(c)` of R140. The word's legality is checked before BUSY. -/
def execWrCmd (c : Word) (s : State) : Out :=
  if cmdRes c ≠ 0 ∨ 4 ≤ (cmdOp c).toNat then .next (s.raiseError .illegalCmd c)
  else
    match (cmdOp c).toNat with
    | 0 => execNop s
    | 1 => execCrypt s
    | 2 => execMd5 s
    | _ => execClear s

end Sys2Proof.Machine
end

