-- ==== Sys2Proof/Machine/Dispatch.lean ====
section
/-! DEFINITION. One arm for each row of spec/opcode_table.json. -/

namespace Sys2Proof.Machine

open Sys2Proof

def exec (i : Instr) (s : State) : Host.Outcome State Fault Refusal :=
  match i with
  | .rdId => Sys2Proof.Machine.execRdId s
  | .rdVersion => Sys2Proof.Machine.execRdVersion s
  | .rdConfig => Sys2Proof.Machine.execRdConfig s
  | .rdStatus => Sys2Proof.Machine.execRdStatus s
  | .wrStatus wdata => Sys2Proof.Machine.execWrStatus wdata s
  | .rdCtrl => Sys2Proof.Machine.execRdCtrl s
  | .wrCtrl wdata => Sys2Proof.Machine.execWrCtrl wdata s
  | .wrCmd c => Sys2Proof.Machine.execWrCmd c s
  | .rdErrCode => Sys2Proof.Machine.execRdErrCode s
  | .rdErrInfo => Sys2Proof.Machine.execRdErrInfo s
  | .rdPwLen => Sys2Proof.Machine.execRdPwLen s
  | .rdSaltLen => Sys2Proof.Machine.execRdSaltLen s
  | .rdResultLen => Sys2Proof.Machine.execRdResultLen s
  | .rdDigest k => Sys2Proof.Machine.execRdDigest k s
  | .wrPwPush wdata => Sys2Proof.Machine.execWrPwPush wdata s
  | .wrSaltPush wdata => Sys2Proof.Machine.execWrSaltPush wdata s
  | .rdResult w => Sys2Proof.Machine.execRdResult w s
  | .nop => Sys2Proof.Machine.execNop s
  | .crypt => Sys2Proof.Machine.execCrypt s
  | .md5 => Sys2Proof.Machine.execMd5 s
  | .clear => Sys2Proof.Machine.execClear s

end Sys2Proof.Machine
end

