-- ==== Sys2Proof/Machine/Access.lean ====
section
/-! DEFINITION. A host access as the register port sees it (spec 40_host_access.md R100, 20_memory.md R60, R63, R64):
the platform's address decoder, and the step of one transfer. -/

namespace Sys2Proof.Machine

open Sys2Proof

/-- The access a 32-bit transfer stands for, decoded (30_encoding.md R86). -/
def execBus (d : BusDecoded) (s : State) : Out :=
  match d with
  | .row i => exec i s
  | .unlisted a => execDefault a s

/-- The host's step: one 32-bit access (10_state.md R20). A narrower one is refused (20_memory.md R64). -/
def hostAccess (t : Transfer) (s : State) : Out :=
  match t.size with
  | .word => execBus (decodeBus t.desc t.wdata) s
  | .byte => .refused (.narrowAccess .byte)
  | .half => .refused (.narrowAccess .half)

/-- The 32-bit access to the window offset `off`: a write of `v`, or a read. -/
def access (write : Bool) (off : BitVec 9) (v : Word) : Transfer := ⟨.word, BitVec.ofBool write ++ off, v⟩

/-- The platform's decoder: the window offset a bus address selects, if it lies in the window (20_memory.md R60,
log entry 5). -/
def windowOffset (addr : Nat) : Option (BitVec 9) :=
  if Config.base ≤ addr ∧ addr < Config.base + 512 then some (BitVec.ofNat 9 (addr - Config.base)) else none

/-- The transfer of a bus access: a write if data is given. An access outside the window does not reach the engine. -/
def busTransfer (size : AccessSize) (addr : Nat) (write? : Option Word) : Option Transfer :=
  (windowOffset addr).map (fun off => ⟨size, BitVec.ofBool write?.isSome ++ off, write?.getD 0⟩)

/-- The host offers a bus access: it follows the events still to come, in order (20_memory.md R71, R72). -/
def State.offer (s : State) (size : AccessSize) (addr : Nat) (write? : Option Word) : State :=
  match busTransfer size addr write? with
  | some t => { s with pending := s.pending ++ [.host t] }
  | none => s

/-- The step of one event (10_state.md R20); only the host's can be refused. -/
def runEvent (e : Event) (s : State) : Out :=
  match e with
  | .host t => hostAccess t s
  | .work => .next s.work
  | .complete => .next s.complete
  | .reset readInFlight => .next (s.applyReset readInFlight)

/-- The next event is taken from the list. -/
def State.popEvent (s : State) (rest : List Event) : State := { s with pending := rest }

/-- An event placed before all others. -/
def State.pushEvent (s : State) (e : Event) : State := { s with pending := e :: s.pending }

/-- The transfer of a row's bits placed as the next event (log entry 6). -/
def State.placeTableWord (s : State) (nbits w : Nat) : State :=
  match operationOfTableWord nbits w with
  | some e => s.pushEvent (.host e.transfer)
  | none => s

end Sys2Proof.Machine
end

