-- ==== Sys2Proof/Machine/Step.lean ====
section
/-! DEFINITION. One step of the machine: the next event, or, where none is left, the engine agent alone (spec
10_state.md R20, 41_commands.md R148, 60_exceptions.md R285, log entry 3). -/

namespace Sys2Proof.Machine

open Sys2Proof

/-- One step. With no event left, a running operation completes and an idle engine keeps its state. -/
def step (s : State) : Host.Outcome State Fault Refusal :=
  match s.pending with
  | [] => .next s.complete
  | e :: rest => runEvent e (s.popEvent rest)

/-- `s` with the operation of a row's bits as the next event (log entry 6). -/
def State.withFetchWord (s : State) (nbits w : Nat) : State := s.placeTableWord nbits w

end Sys2Proof.Machine
end

