-- ==== Sys2Proof/Machine/HostProgram.lean ====
section
/-! DEFINITION. The host programs of spec 30_encoding.md R90 and the pseudo-operations of R91: what each form asks of
the register window, and what a program does between the steps of the other agents. -/

namespace Sys2Proof.Machine

open Sys2Proof

/-- The registers a line of a program can name: the registers of 10_state.md, or a raw offset written `@0x0NN`. -/
inductive HostReg where
  | id
  | version
  | config
  | ctrl
  | status
  | cmd
  | errCode
  | errInfo
  | pwLen
  | saltLen
  | resultLen
  | pwPush
  | saltPush
  | digest (k : BitVec 2)
  | result (w : BitVec 6)
  | raw (off : BitVec 9)
deriving DecidableEq, Repr

/-- `off(REG)`, the register's offset in the window. -/
def HostReg.offset : HostReg → BitVec 9
  | .id => 0x000
  | .version => 0x004
  | .config => 0x008
  | .ctrl => 0x010
  | .status => 0x014
  | .cmd => 0x018
  | .errCode => 0x01C
  | .errInfo => 0x020
  | .pwLen => 0x024
  | .saltLen => 0x028
  | .resultLen => 0x02C
  | .pwPush => 0x030
  | .saltPush => 0x034
  | .digest k => 0x040 + k.setWidth 9 * 4
  | .result w => 0x100 + w.setWidth 9 * 4
  | .raw off => off

/-- One line of a host program (R90). -/
inductive HostOp where
  /-- `wr REG, v`. -/
  | wr (reg : HostReg) (v : Word)
  /-- `rd REG -> x`. -/
  | rd (reg : HostReg)
  /-- `poll REG, m, v`: repeat `rd REG -> t` until `(t & m) = v`. -/
  | poll (reg : HostReg) (m v : Word)
deriving DecidableEq, Repr

/-- The access a line makes; a poll makes it once for each iteration. -/
def HostOp.transfer : HostOp → Transfer
  | .wr reg v => access true reg.offset v
  | .rd reg => access false reg.offset 0
  | .poll reg _ _ => access false reg.offset 0

/-- Whether a line is over once its access has returned `t`. -/
def HostOp.over : HostOp → Word → Bool
  | .wr _ _, _ => true
  | .rd _, _ => true
  | .poll _ m v, t => t &&& m == v

/-- What a line hands to the program: a read its value. -/
def HostOp.values : HostOp → Word → List Word
  | .wr _ _, _ => []
  | .rd _, t => [t]
  | .poll _ _ _, _ => []

/-! ### Running lines -/

/-- Where a run of the host stands: the state, the steps of the other agents still to come before each further access,
and what the host has got from its reads. -/
structure HostRun (α : Type) where
  state : State
  gaps : List (List Event)
  value : α
deriving DecidableEq, Repr

/-- What the host holds is turned into something else; nothing happens. -/
def HostRun.mapValue {α β : Type} (r : HostRun α) (f : α → β) : HostRun β := ⟨r.state, r.gaps, f r.value⟩

/-- The steps of other agents between two accesses of the host; none if one of them is refused. -/
def runEvents : List Event → State → Option State
  | [], s => some s
  | e :: es, s =>
    match runEvent e s with
    | .next t => runEvents es t
    | .fault _ => none
    | .refused _ => none

/-- Lines run with the steps of the other agents before each access as given, and the values their reads returned.
There is no end if they make more accesses than are given, as a poll may. -/
def runOps : List (List Event) → List HostOp → State → Option (HostRun (List Word))
  | gaps, [], s => some ⟨s, gaps, []⟩
  | [], _ :: _, _ => none
  | es :: gaps, op :: ops, s =>
    match runEvents es s with
    | none => none
    | some s' =>
      match hostAccess op.transfer s' with
      | .next t =>
        if op.over t.rdata then
          (runOps gaps ops t).map (fun r => r.mapValue (fun ws => op.values t.rdata ++ ws))
        else runOps gaps (op :: ops) t
      | .fault _ => none
      | .refused _ => none

/-! ### The pseudo-operations (R91) -/

/-- `cmd NOP`, `cmd CRYPT`, `cmd MD5`, `cmd CLEAR`: the write of the command's word to CMD. -/
def HostOp.cmd (c : Word) : List HostOp := [.wr .cmd c]

/-- `push_pw "s"`. -/
def HostOp.pushPw (s : List Byte) : List HostOp := s.map (fun c => .wr .pwPush (c.setWidth 32))

/-- `push_salt "s"`. -/
def HostOp.pushSalt (s : List Byte) : List HostOp := s.map (fun c => .wr .saltPush (c.setWidth 32))

/-- `wait`: until BUSY is 0. -/
def HostOp.wait : List HostOp := [.poll .status 0x1 0x0]

/-- `ack`: clear DONE and ERR. -/
def HostOp.ack : List HostOp := [.wr .status 0x6]

/-- The first read of `read_result -> s`: `rd RESULT_LEN -> n`. -/
def HostOp.readResultLen : List HostOp := [.rd .resultLen]

/-- The further reads of `read_result -> s` once the first has returned `n`: `rd RESULTw` for `w = 0` to
`ceil(n/4)-1`. -/
def HostOp.readResult (n : Word) : List HostOp :=
  (List.range ((n.toNat + 3) / 4)).map (fun w => .rd (.result (BitVec.ofNat 6 w)))

/-- `read_digest -> d`. -/
def HostOp.readDigest : List HostOp := (List.range 4).map (fun k => .rd (.digest (BitVec.ofNat 2 k)))

/-- The bytes of words, each little-endian. -/
def bytesOfWords (ws : List Word) : List Byte :=
  ws.flatMap (fun (w : Word) => [w.setWidth 8, (w >>> 8).setWidth 8, (w >>> 16).setWidth 8, (w >>> 24).setWidth 8])

/-- The `s` of `read_result -> s`: "the first n bytes of the words, little-endian". -/
def resultString (n : Word) (ws : List Word) : List Byte := (bytesOfWords ws).take n.toNat

/-- `read_result -> s`: the count of the further reads is what this run's own read of RESULT_LEN returned. -/
def runReadResult (gaps : List (List Event)) (s : State) : Option (HostRun (List Byte)) :=
  (runOps gaps HostOp.readResultLen s).bind (fun r =>
    let n := r.value.headD 0
    (runOps r.gaps (HostOp.readResult n) r.state).map (fun q => q.mapValue (resultString n)))

/-- `read_digest -> d`: the 16 bytes of the four words. -/
def runReadDigest (gaps : List (List Event)) (s : State) : Option (HostRun (List Byte)) :=
  (runOps gaps HostOp.readDigest s).map (fun r => r.mapValue bytesOfWords)

/-! ### Programs -/

/-- One line of a host program: a form of R90 or a pseudo-operation of R91. -/
inductive HostLine where
  /-- A form of R90. -/
  | op (o : HostOp)
  /-- `cmd NOP` (0), `cmd CRYPT` (1), `cmd MD5` (2), `cmd CLEAR` (3). -/
  | cmd (c : Word)
  /-- `push_pw "s"`. -/
  | pushPw (s : List Byte)
  /-- `push_salt "s"`. -/
  | pushSalt (s : List Byte)
  /-- `wait`. -/
  | wait
  /-- `ack`. -/
  | ack
  /-- `read_result -> s`. -/
  | readResult
  /-- `read_digest -> d`. -/
  | readDigest
deriving DecidableEq, Repr

/-- What a line hands to its program: a word that was read, or a byte string. -/
inductive HostValue where
  | word (x : Word)
  | bytes (s : List Byte)
deriving DecidableEq, Repr

/-- Lines of R90, the words they read as the program's values. -/
def runWords (gaps : List (List Event)) (ops : List HostOp) (s : State) : Option (HostRun (List HostValue)) :=
  (runOps gaps ops s).map (fun r => r.mapValue (fun ws => ws.map .word))

/-- The run of one line. -/
def HostLine.run (gaps : List (List Event)) (line : HostLine) (s : State) : Option (HostRun (List HostValue)) :=
  match line with
  | .op o => runWords gaps [o] s
  | .cmd c => runWords gaps (HostOp.cmd c) s
  | .pushPw bs => runWords gaps (HostOp.pushPw bs) s
  | .pushSalt bs => runWords gaps (HostOp.pushSalt bs) s
  | .wait => runWords gaps HostOp.wait s
  | .ack => runWords gaps HostOp.ack s
  | .readResult => (runReadResult gaps s).map (fun r => r.mapValue (fun bs => [.bytes bs]))
  | .readDigest => (runReadDigest gaps s).map (fun r => r.mapValue (fun bs => [.bytes bs]))

/-- The run of a program, line after line: its end and all that its reads handed to it. -/
def runProgram (gaps : List (List Event)) : List HostLine → State → Option (HostRun (List HostValue))
  | [], s => some ⟨s, gaps, []⟩
  | line :: lines, s =>
    match line.run gaps s with
    | none => none
    | some r => (runProgram r.gaps lines r.state).map (fun q => q.mapValue (fun vs => r.value ++ vs))

end Sys2Proof.Machine
end

