-- ==== Sys2Proof/Safety.lean ====
section
/-! DEFINITION. The terms in which claims speak of a good state: the invariant every run from reset keeps, what the
host can observe, and the events that do not stop an operation. -/

namespace Sys2Proof.Machine

open Sys2Proof

/-- Every listed index of a store is below `n`: all bytes from `n` upward read 0. -/
abbrev Memory.Below (m : Memory) (n : Nat) : Prop := ∀ c ∈ m, c.1 < n

/-- The byte stores are in canonical form. -/
abbrev State.StoresCanonical (s : State) : Prop :=
  s.pwBuf.wf = true ∧ s.saltBuf.wf = true ∧ s.resultBuf.wf = true

/-- The capacities are legal (00_scope.md R8), the lengths are within them (10_state.md R29, R30) and the entries at
and beyond a length are zero (R37, R38). -/
abbrev State.InputsBounded (s : State) : Prop :=
  s.params.Legal ∧ s.pwLen.toNat ≤ s.params.pwMax ∧ s.saltLen.toNat ≤ s.params.saltMax ∧
    s.pwBuf.Below s.pwLen.toNat ∧ s.saltBuf.Below s.saltLen.toNat

/-- The result registers: bytes at and beyond RESULT_LEN are zero (10_state.md R35), the string fits the buffer
(44_encoder.md R247), it is empty but after a CRYPT completion (10_state.md R31), and all results are zero while an
operation runs or none has started (R34, R39, 70_reset_and_hazards.md R300). -/
abbrev State.ResultsSound (s : State) : Prop :=
  s.resultBuf.Below s.resultLen.toNat ∧ s.resultLen.toNat ≤ 256 ∧
    (s.status.op ≠ .crypt → s.resultLen = 0) ∧
    (s.status.op = .crypt → s.status.busy = false → 26 ≤ s.resultLen.toNat) ∧
    (s.status.busy = true ∨ s.status.op = .none → s.digestBuf = zeroDigest ∧ s.resultLen = 0)

/-- The error record is empty exactly while ERR is 0 (40_host_access.md R109, 60_exceptions.md R260, R270, R271). -/
abbrev State.ErrorRecordSound (s : State) : Prop :=
  (s.status.err = false → s.errCode = .none ∧ s.errInfo = 0 ∧ s.status.emult = false) ∧
    (s.status.err = true → s.errCode ≠ .none)

/-- The sequencer's position: IDLE if and only if BUSY is 0 (10_state.md R42), else a phase of the operation OP names
(43_crypt_sequencer.md R209, R212); RIDX is at most 999; DONE is never stale (70_reset_and_hazards.md R304). -/
abbrev State.SequencerSound (s : State) : Prop :=
  (s.status.busy = false → s.seq = .idle) ∧
    (s.status.busy = true →
      s.status.done = false ∧
        (s.status.op = .crypt ∧ s.seq.phase ∈ [.alt, .seed, .round, .encode] ∨
          s.status.op = .md5 ∧ s.seq.phase = .raw)) ∧
    s.seq.ridx.toNat ≤ 999 ∧
    (s.status.op = .none → s.status.done = false)

/-- Between the engine's steps no compression is under way: T is 0 and the block is not full (42_md5_core.md R167). -/
abbrev State.CoreSettled (s : State) : Prop := s.core.t = 0 ∧ s.core.fill.toNat < 64

/-- The invariant: what holds in every state a run from reset reaches. -/
abbrev State.Inv (s : State) : Prop :=
  s.StoresCanonical ∧ s.InputsBounded ∧ s.ResultsSound ∧ s.ErrorRecordSound ∧ s.SequencerSound ∧ s.CoreSettled

/-- What the host can observe of a state: everything but the input buffers and the internal registers (10_state.md
R37, R38, R45). -/
def State.hostView (s : State) : State :=
  { s with pwBuf := [], saltBuf := [], altReg := zeroDigest, digReg := zeroDigest, core := .zero, seq := .idle }

/-- An event that neither resets the engine nor is refused: a 32-bit host access or a step of the engine agent. -/
def Event.serves : Event → Bool
  | .host t => t.size == .word
  | .work => true
  | .complete => true
  | .reset _ => false

/-- The offset of the word an offset addresses: `addr[1:0]` are ignored (20_memory.md R63). -/
def wordOf (off : BitVec 9) : Nat := off.toNat / 4 * 4

/-- The reserved offsets (10_state.md R36). -/
abbrev Reserved (w : Nat) : Prop := w = 0x00C ∨ w = 0x038 ∨ w = 0x03C ∨ (0x050 ≤ w ∧ w < 0x100)

/-- A command word that is illegal: OP in 0x4 to 0xF, or RES not 0 (30_encoding.md R87). -/
abbrev IllegalWord (c : Word) : Prop := 4 ≤ c.toNat % 16 ∨ c.toNat / 16 ≠ 0

end Sys2Proof.Machine
end

