-- ==== Sys2Proof/Certificates/Slice0/Obligations.lean ====
section
/-! DEFINITION. The statements about the model, for the provers. Each cites the rule of spec/ it formalises. -/

open Sys2Proof Sys2Proof.Machine

/-! ### Encoding -/

/-- 30_encoding.md R84, R85: decoding an encoded well-formed instruction gives it back, with every operand. -/
def Obligations.DecodeInvertsEncode : Prop := ∀ i : Instr, i.WellFormed → decode (encode i) = some i

/-- 30_encoding.md R85: "every descriptor matches at most one row". -/
def Obligations.DescriptorMatchesAtMostOneRow : Prop :=
  ∀ d : BitVec 10, (busTable.filter (fun r => r.selects d)).length ≤ 1

/-- Words written out from the tables of 30_encoding.md R84 and R85, in the numbering of opcode_table.json. -/
def Obligations.SampleWordsDecode : Prop :=
  decodeTableWord 16 0x014 = some .rdStatus ∧ decodeTableWord 16 0x048 = some (.rdDigest 2) ∧
    decodeTableWord 16 0x1FC = some (.rdResult 63) ∧ decodeTableWord 16 0x218 = some (.wrCmd 0) ∧
    decodeTableWord 32 0x1 = some .crypt ∧ decodeTableWord 32 0x4 = none ∧ decodeTableWord 16 0x00C = none

/-- 30_encoding.md R87: "The only illegal encodings are CMD words with `OP` in 0x4 to 0xF, or with `RES != 0`." -/
def Obligations.IllegalWordsAreExactlyThese : Prop := ∀ c : Word, decodeCmd c = .illegal ↔ IllegalWord c

/-! ### The step -/

/-- Where the next event is a 32-bit access, the step is exec of the instruction its descriptor decodes to, or the
default access of 30_encoding.md R86, at the state with that event taken from the list. -/
def Obligations.StepRunsDecodedInstruction : Prop :=
  ∀ (s : State) (d : BitVec 10) (v : Word) (rest : List Event), s.pending = .host ⟨.word, d, v⟩ :: rest →
    (∀ i, decode (.bus d v) = some i → step s = exec i { s with pending := rest }) ∧
      (∀ a, decodeBus d v = .unlisted a → step s = execDefault a { s with pending := rest })

/-- The other events (10_state.md R20, log entry 3): the engine's work, its completion, a reset; with no event left, the
completion alone. A narrow access is refused: "A model refuses such an access rather than guess a meaning"
(20_memory.md R64). -/
def Obligations.StepTakesTheNextEvent : Prop :=
  ∀ (s : State) (rest : List Event),
    (s.pending = [] → step s = .next s.complete) ∧
      (∀ (size : AccessSize) (d : BitVec 10) (v : Word), size ≠ .word → s.pending = .host ⟨size, d, v⟩ :: rest →
        step s = .refused (.narrowAccess size)) ∧
      (s.pending = .work :: rest → step s = .next { s with pending := rest }.work) ∧
      (s.pending = .complete :: rest → step s = .next { s with pending := rest }.complete) ∧
      (∀ r, s.pending = .reset r :: rest → step s = .next ({ s with pending := rest }.applyReset r))

/-- 20_memory.md R63: every access, misaligned or not, completes as the access to the aligned word does. -/
def Obligations.LowOffsetBitsAreIgnored : Prop :=
  ∀ (d : BitVec 10) (v : Word) (s : State),
    ∃ t, hostAccess ⟨.word, d, v⟩ s = .next t ∧ hostAccess ⟨.word, d &&& 0x3FC, v⟩ s = .next t

/-- 20_memory.md R60: an access to a bus address inside the window reaches the offset `addr - BASE`; one outside does
not reach the engine. -/
def Obligations.BusAddressesSelectTheWindow : Prop :=
  ∀ (addr : Nat) (size : AccessSize) (write? : Option Word),
    (∀ off < 512, addr = Config.base + off →
      busTransfer size addr write? =
        some ⟨size, BitVec.ofNat 10 ((if write?.isSome then 512 else 0) + off), write?.getD 0⟩) ∧
      (addr < Config.base ∨ Config.base + 512 ≤ addr → busTransfer size addr write? = none)

/-! ### Reads -/

/-- 40_host_access.md R101 to R103, 10_state.md R23: the constant registers, in every state; the capacities each in its
half of CONFIG. -/
def Obligations.IdentityAndConfigurationReads : Prop :=
  ∀ s : State, exec .rdId s = .next { s with rdata := 0x4D443543 } ∧
    exec .rdVersion s = .next { s with rdata := 0x00010000 } ∧
    ∃ x : Word, exec .rdConfig s = .next { s with rdata := x } ∧
      x.extractLsb' 0 16 = BitVec.ofNat 16 s.params.pwMax ∧
      x.extractLsb' 16 16 = BitVec.ofNat 16 s.params.saltMax ∧
      (s.params.Legal → x.toNat = s.params.saltMax * 65536 + s.params.pwMax)

/-- 40_host_access.md R104: bit by bit what a read of STATUS returns, with the interrupt line of 60_exceptions.md R275
at bit 3. -/
def Obligations.StatusReadShowsEveryFlag : Prop :=
  ∀ s : State, ∃ x : Word, exec .rdStatus s = .next { s with rdata := x } ∧
    x.getLsbD 0 = s.status.busy ∧ x.getLsbD 1 = s.status.done ∧ x.getLsbD 2 = s.status.err ∧
    x.getLsbD 3 = (s.status.done && s.ctrl.ieDone || s.status.err && s.ctrl.ieErr) ∧
    x.extractLsb' 4 2 = (match s.status.op with | .none => 0 | .crypt => 1 | .md5 => 2) ∧
    x.getLsbD 6 = s.status.emult ∧ ∀ j, 7 ≤ j → x.getLsbD j = false

/-- 40_host_access.md R106: the two enables; "the reserved bits read 0". -/
def Obligations.ControlReadShowsEnables : Prop :=
  ∀ s : State, ∃ x : Word, exec .rdCtrl s = .next { s with rdata := x } ∧
    x.getLsbD 0 = s.ctrl.ieDone ∧ x.getLsbD 1 = s.ctrl.ieErr ∧ ∀ j, 2 ≤ j → x.getLsbD j = false

/-- 40_host_access.md R109, R110, with the codes of 60_exceptions.md R260; that the code is 0 whenever
ERR is 0 is an inference the spec marks as its own (R109). -/
def Obligations.ErrorRegistersRead : Prop :=
  ∀ s : State,
    (∃ x : Word, exec .rdErrCode s = .next { s with rdata := x } ∧
      x.toNat = (match s.errCode with
        | .none => 0 | .illegalCmd => 1 | .busy => 2 | .pwOverflow => 3 | .saltOverflow => 4) ∧
      (s.ErrorRecordSound → s.status.err = false → x = 0)) ∧
    exec .rdErrInfo s = .next { s with rdata := s.errInfo }

/-- 40_host_access.md R111 to R113: the lengths, zero-extended. -/
def Obligations.LengthRegistersRead : Prop :=
  ∀ s : State,
    (∃ x : Word, exec .rdPwLen s = .next { s with rdata := x } ∧ x.toNat = s.pwLen.toNat) ∧
    (∃ x : Word, exec .rdSaltLen s = .next { s with rdata := x } ∧ x.toNat = s.saltLen.toNat) ∧
    (∃ x : Word, exec .rdResultLen s = .next { s with rdata := x } ∧ x.toNat = s.resultLen.toNat)

/-- 40_host_access.md R114, 20_memory.md R65: byte `j` of the word read is byte `4k + j` of the digest buffer. -/
def Obligations.DigestViewIsLittleEndian : Prop :=
  ∀ (s : State) (k : Nat), k < 4 → ∃ x : Word, exec (.rdDigest k) s = .next { s with rdata := x } ∧
    ∀ j < 4, s.digestBuf[4 * k + j]? = some (x.extractLsb' (8 * j) 8)

/-- 40_host_access.md R117, 10_state.md R35: byte `j` of the word read is byte `4w + j` of the result buffer, and bytes
at index RESULT_LEN and above read 0. -/
def Obligations.ResultViewIsLittleEndian : Prop :=
  ∀ (s : State) (w : Nat), w < 64 → ∃ x : Word, exec (.rdResult w) s = .next { s with rdata := x } ∧
    ∀ j < 4, x.extractLsb' (8 * j) 8 = s.resultBuf.read (4 * w + j) ∧
      (s.ResultsSound → s.resultLen.toNat ≤ 4 * w + j → x.extractLsb' (8 * j) 8 = 0)

/-- 70_reset_and_hazards.md R300: while an operation runs, the digest, the result and its length read 0. -/
def Obligations.ResultsReadZeroWhileBusy : Prop :=
  ∀ s : State, s.ResultsSound → s.status.busy = true →
    (∀ k < 4, exec (.rdDigest k) s = .next { s with rdata := 0 }) ∧
      (∀ w < 64, exec (.rdResult w) s = .next { s with rdata := 0 }) ∧
      exec .rdResultLen s = .next { s with rdata := 0 }

/-- 20_memory.md R68: a read at any offset changes nothing, and reading the offset again returns the same value. -/
def Obligations.ReadsHaveNoSideEffect : Prop :=
  ∀ (off : BitVec 9) (v : Word) (s : State), ∃ x : Word,
    hostAccess (access false off v) s = .next { s with rdata := x } ∧
      ∀ (v' y : Word), hostAccess (access false off v') { s with rdata := y } = .next { s with rdata := x }

/-- 40_host_access.md R118 to R121: reserved offsets, reads of write-only registers, writes to read-only registers. -/
def Obligations.UnlistedAccessesReadZeroOrAreIgnored : Prop :=
  ∀ (off : BitVec 9) (v : Word) (s : State),
    (Reserved (wordOf off) → hostAccess (access false off v) s = .next { s with rdata := 0 } ∧
      hostAccess (access true off v) s = .next s) ∧
    (wordOf off = 0x018 ∨ wordOf off = 0x030 ∨ wordOf off = 0x034 →
      hostAccess (access false off v) s = .next { s with rdata := 0 }) ∧
    (wordOf off < 0x00C ∨ (0x01C ≤ wordOf off ∧ wordOf off < 0x030) ∨ (0x040 ≤ wordOf off ∧ wordOf off < 0x050) ∨
        0x100 ≤ wordOf off →
      hostAccess (access true off v) s = .next s)

/-! ### Writes, errors and the interrupt line -/

/-- 40_host_access.md R105: writing 1 to bit 1 clears DONE; writing 1 to bit 2 clears ERR, EMULT, ERR_CODE and
ERR_INFO; nothing else changes. -/
def Obligations.StatusWriteClearsOnes : Prop :=
  ∀ (v : Word) (s : State), exec (.wrStatus v) s = .next
    { s with
      status :=
        { busy := s.status.busy
          done := s.status.done && !v.getLsbD 1
          err := s.status.err && !v.getLsbD 2
          op := s.status.op
          emult := s.status.emult && !v.getLsbD 2 }
      errCode := if v.getLsbD 2 then .none else s.errCode
      errInfo := if v.getLsbD 2 then 0 else s.errInfo }

/-- 40_host_access.md R107: the write sets the two enables and nothing else, whatever BUSY is. -/
def Obligations.ControlWriteSetsEnables : Prop :=
  ∀ (v : Word) (s : State), exec (.wrCtrl v) s = .next { s with ctrl := ⟨v.getLsbD 0, v.getLsbD 1⟩ }

/-- 60_exceptions.md R275, R278: the line follows a write of the enables or of the flags at once, and stays asserted
while either enabled source is pending. -/
def Obligations.InterruptLineFollowsWrites : Prop :=
  ∀ (v : Word) (s : State),
    (∃ t, exec (.wrCtrl v) s = .next t ∧
      (t.irq = true ↔ s.status.done = true ∧ v.getLsbD 0 = true ∨ s.status.err = true ∧ v.getLsbD 1 = true)) ∧
    (∃ t, exec (.wrStatus v) s = .next t ∧
      (t.irq = true ↔ s.status.done = true ∧ v.getLsbD 1 = false ∧ s.ctrl.ieDone = true ∨
        s.status.err = true ∧ v.getLsbD 2 = false ∧ s.ctrl.ieErr = true))

/-- 60_exceptions.md R270: the first error is recorded, a later one only sets EMULT. -/
def Obligations.RaiseRecordsTheFirstError : Prop :=
  ∀ (s : State) (code : ErrCode) (info : Word),
    (s.status.err = false → s.raiseError code info =
      { s with status := { s.status with err := true }, errCode := code, errInfo := info }) ∧
    (s.status.err = true → s.raiseError code info = { s with status := { s.status with emult := true } })

/-- 60_exceptions.md R270, R271: no access changes the record while ERR stays 1. -/
def Obligations.FirstErrorIsKept : Prop :=
  ∀ (tr : Transfer) (s t : State), hostAccess tr s = .next t → s.status.err = true → t.status.err = true →
    t.errCode = s.errCode ∧ t.errInfo = s.errInfo

/-- 60_exceptions.md R274: an access that raises an error (it leaves ERR set where it finds no error recorded) changes
nothing but the error record of R270, whatever is recorded already. -/
def Obligations.ErrorsArePrecise : Prop :=
  ∀ (tr : Transfer) (s u : State), hostAccess tr s.clearError = .next u → u.status.err = true →
    hostAccess tr s = .next
      { s with
        status := { s.status with err := true, emult := s.status.emult || s.status.err }
        errCode := if s.status.err then s.errCode else u.errCode
        errInfo := if s.status.err then s.errInfo else u.errInfo }

/-- 60_exceptions.md R272: ILLEGAL_CMD before BUSY, BUSY before the overflows. -/
def Obligations.ErrorPriority : Prop :=
  ∀ (s : State) (v : Word), s.status.busy = true → s.status.err = false →
    (IllegalWord v → ∃ t, exec (.wrCmd v) s = .next t ∧ t.errCode = .illegalCmd) ∧
      (s.pwLen.toNat = s.params.pwMax → ∃ t, exec (.wrPwPush v) s = .next t ∧ t.errCode = .busy) ∧
      (s.saltLen.toNat = s.params.saltMax → ∃ t, exec (.wrSaltPush v) s = .next t ∧ t.errCode = .busy)

/-- 60_exceptions.md R263, R261: while an operation runs, a push and the commands CRYPT, MD5 and CLEAR raise BUSY, with
their low byte and their offset, and do nothing else; no other access raises it (shown where no error is recorded, so
that a record would show it). -/
def Obligations.BusyRefusesExactlyPushesAndCommands : Prop :=
  ∀ (off : BitVec 9) (v : Word) (s : State), s.status.busy = true →
    ((wordOf off = 0x030 ∨ wordOf off = 0x034 ∨ wordOf off = 0x018 ∧ 1 ≤ v.toNat ∧ v.toNat ≤ 3) →
      hostAccess (access true off v) s =
        .next (s.raiseError .busy (BitVec.ofNat 32 (v.toNat % 256 * 65536 + wordOf off)))) ∧
    (s.status.err = false → s.errCode = .none →
      (¬(wordOf off = 0x030 ∨ wordOf off = 0x034 ∨ wordOf off = 0x018 ∧ 1 ≤ v.toNat ∧ v.toNat ≤ 3) →
        ∃ t, hostAccess (access true off v) s = .next t ∧ t.errCode ≠ .busy) ∧
      (∃ t, hostAccess (access false off v) s = .next t ∧ t.errCode = .none))

/-- 40_host_access.md R115: the three outcomes of a push. A stored byte goes to index PW_LEN; every other byte of the
buffer reads as before. -/
def Obligations.PasswordPushOutcome : Prop :=
  ∀ (v : Word) (s : State), s.pwBuf.wf = true →
    (s.status.busy = true → ∃ info : Word, info.toNat = v.toNat % 256 * 65536 + 0x0030 ∧
      exec (.wrPwPush v) s = .next (s.raiseError .busy info)) ∧
    (s.status.busy = false → s.pwLen.toNat = s.params.pwMax → ∃ info : Word, info.toNat = v.toNat % 256 ∧
      exec (.wrPwPush v) s = .next (s.raiseError .pwOverflow info)) ∧
    (s.status.busy = false → s.pwLen.toNat ≠ s.params.pwMax → ∃ buf : Memory,
      exec (.wrPwPush v) s = .next { s with pwBuf := buf, pwLen := s.pwLen + 1 } ∧ buf.wf = true ∧
        ∀ a, buf.read a = if a = s.pwLen.toNat then v.setWidth 8 else s.pwBuf.read a)

/-- 40_host_access.md R116: the three outcomes of a push to the salt buffer. -/
def Obligations.SaltPushOutcome : Prop :=
  ∀ (v : Word) (s : State), s.saltBuf.wf = true →
    (s.status.busy = true → ∃ info : Word, info.toNat = v.toNat % 256 * 65536 + 0x0034 ∧
      exec (.wrSaltPush v) s = .next (s.raiseError .busy info)) ∧
    (s.status.busy = false → s.saltLen.toNat = s.params.saltMax → ∃ info : Word, info.toNat = v.toNat % 256 ∧
      exec (.wrSaltPush v) s = .next (s.raiseError .saltOverflow info)) ∧
    (s.status.busy = false → s.saltLen.toNat ≠ s.params.saltMax → ∃ buf : Memory,
      exec (.wrSaltPush v) s = .next { s with saltBuf := buf, saltLen := s.saltLen + 1 } ∧ buf.wf = true ∧
        ∀ a, buf.read a = if a = s.saltLen.toNat then v.setWidth 8 else s.saltBuf.read a)

/-- 70_reset_and_hazards.md R306, 10_state.md R37, R38: an accepted push appends its byte to the password or to the
salt, and leaves the other. -/
def Obligations.PushesAppendToTheInputs : Prop :=
  ∀ (v : Word) (s : State), s.StoresCanonical → s.InputsBounded → s.status.busy = false →
    (s.pwLen.toNat ≠ s.params.pwMax → ∃ t, exec (.wrPwPush v) s = .next t ∧
      t.password = s.password ++ [v.setWidth 8] ∧ t.salt = s.salt) ∧
    (s.saltLen.toNat ≠ s.params.saltMax → ∃ t, exec (.wrSaltPush v) s = .next t ∧
      t.salt = s.salt ++ [v.setWidth 8] ∧ t.password = s.password)

/-- 30_encoding.md R91: with no other agent between its accesses, `push_pw` of a string that fits appends it to the
password and `push_salt` to the salt. `read_result` returns the result string and `read_digest` the digest of the state
its first read finds, whatever steps of other agents (a completion, a reset) come before that read. -/
def Obligations.PseudoOperationsMoveStrings : Prop :=
  (∀ (bs : List Byte) (s : State), s.StoresCanonical → s.InputsBounded → s.status.busy = false →
    (s.pwLen.toNat + bs.length ≤ s.params.pwMax →
      ∃ t, (HostLine.pushPw bs).run (List.replicate bs.length []) s = some ⟨t, [], []⟩ ∧
        t.password = s.password ++ bs ∧ t.salt = s.salt) ∧
    (s.saltLen.toNat + bs.length ≤ s.params.saltMax →
      ∃ t, (HostLine.pushSalt bs).run (List.replicate bs.length []) s = some ⟨t, [], []⟩ ∧
        t.salt = s.salt ++ bs ∧ t.password = s.password)) ∧
  (∀ (es : List Event) (s u : State), runEvents es s = some u →
    (u.ResultsSound → ∃ x : Word,
      HostLine.readResult.run (es :: List.replicate ((u.resultLen.toNat + 3) / 4) []) s =
        some ⟨{ u with rdata := x }, [], [.bytes u.result]⟩) ∧
    ∃ x : Word, HostLine.readDigest.run (es :: List.replicate 3 []) s =
      some ⟨{ u with rdata := x }, [], [.bytes u.digestBuf.toList]⟩)

/-- 41_commands.md R146, R148, 70_reset_and_hazards.md R301: while an operation runs, no access changes its inputs, its
state or its results. -/
def Obligations.RunningOperationIsUndisturbed : Prop :=
  ∀ (tr : Transfer) (s t : State), hostAccess tr s = .next t → s.status.busy = true →
    t.status.busy = true ∧ t.status.op = s.status.op ∧ t.pwBuf = s.pwBuf ∧ t.pwLen = s.pwLen ∧
      t.saltBuf = s.saltBuf ∧ t.saltLen = s.saltLen ∧ t.digestBuf = s.digestBuf ∧ t.resultBuf = s.resultBuf ∧
      t.resultLen = s.resultLen ∧ t.altReg = s.altReg ∧ t.digReg = s.digReg ∧ t.core = s.core ∧ t.seq = s.seq

/-! ### Commands -/

/-- 41_commands.md R145, 60_exceptions.md R262: an illegal command word records ILLEGAL_CMD with the word, in every
state, and changes nothing else. -/
def Obligations.IllegalCommandRecordsItsWord : Prop :=
  ∀ (c : Word) (s : State), IllegalWord c →
    exec (.wrCmd c) s = .next (s.raiseError .illegalCmd c)

/-- 41_commands.md R140: a write of a legal command word is the command's instruction. -/
def Obligations.CommandWordRunsItsInstruction : Prop :=
  ∀ (c : Word) (i : Instr) (s : State), decode (.cmd c) = some i → exec (.wrCmd c) s = exec i s

/-- 41_commands.md R144: in every state, NOP changes nothing. -/
def Obligations.NopChangesNothing : Prop :=
  ∀ s : State, exec .nop s = .next s ∧ exec (.wrCmd 0x0) s = .next s

/-- 41_commands.md R141: what the start of CRYPT writes, and its refusal while an operation runs. -/
def Obligations.CryptStartsOperation : Prop :=
  ∀ s : State,
    (s.status.busy = false →
      exec .crypt s = .next
          { s with
            status := { s.status with busy := true, done := false, op := .crypt }
            digestBuf := Vector.replicate 16 0, resultBuf := [], resultLen := 0, seq := ⟨.alt, 0, 0, 0⟩ } ∧
        exec (.wrCmd 0x1) s = exec .crypt s) ∧
    (s.status.busy = true → exec .crypt s = .next (s.raiseError .busy 0x00010018))

/-- 41_commands.md R142: what the start of MD5 writes, and its refusal while an operation runs. -/
def Obligations.Md5StartsOperation : Prop :=
  ∀ s : State,
    (s.status.busy = false →
      exec .md5 s = .next
          { s with
            status := { s.status with busy := true, done := false, op := .md5 }
            digestBuf := Vector.replicate 16 0, resultBuf := [], resultLen := 0, seq := ⟨.raw, 0, 0, 0⟩ } ∧
        exec (.wrCmd 0x2) s = exec .md5 s) ∧
    (s.status.busy = true → exec .md5 s = .next (s.raiseError .busy 0x00020018))

/-- 41_commands.md R143: after CLEAR everything but CTRL is as after reset, and CLEAR is refused while an operation
runs. The last three fields are the model's own. -/
def Obligations.ClearLeavesOnlyControl : Prop :=
  ∀ s : State,
    (s.status.busy = false →
      exec .clear s = .next
          { State.resetFor s.params with
            ctrl := s.ctrl, rdata := s.rdata, pending := s.pending, freeCount := s.freeCount } ∧
        exec (.wrCmd 0x3) s = exec .clear s) ∧
    (s.status.busy = true → exec .clear s = .next (s.raiseError .busy 0x00030018))

/-! ### Completion -/

/-- 41_commands.md R146: the completion of CRYPT, taken at any moment while it runs, publishes the digest and the string
of its inputs; of the rest only STATUS, the sequencer's position and the internal datapath registers change. That the
completion is an event of the list, and that it is taken where the list is empty, is the model's (log entry 3). -/
def Obligations.CryptCompletionPublishesTheHash : Prop :=
  ∀ (s : State) (rest : List Event), s.status.busy = true → s.status.op = .crypt → s.saltLen.toNat ≤ 230 →
    (s.pending = .complete :: rest ∨ s.pending = [] ∧ rest = []) →
    ∃ t, step s = .next t ∧ t.digestBuf = finalDigest s.password s.salt ∧
      t.resultLen.toNat = 26 + s.saltLen.toNat ∧
      (∀ i, t.resultBuf.read i = (encodedHash s.salt (finalDigest s.password s.salt)).getD i 0) ∧
      t = { s with
        pending := rest
        status := { s.status with busy := false, done := true }
        digestBuf := t.digestBuf, resultBuf := t.resultBuf, resultLen := t.resultLen
        altReg := t.altReg, digReg := t.digReg, core := t.core, seq := ⟨.idle, 0, 0, 0⟩ }

/-- 41_commands.md R147: the completion of MD5. The result buffer and its length are left as they are, which is zero
where ResultsSound holds. That the completion is an event of the list, and that it is taken where the list is empty, is
the model's (log entry 3). -/
def Obligations.Md5CompletionPublishesTheDigest : Prop :=
  ∀ (s : State) (rest : List Event), s.status.busy = true → s.status.op = .md5 →
    (s.pending = .complete :: rest ∨ s.pending = [] ∧ rest = []) →
    ∃ t, step s = .next t ∧
      t = { s with
        pending := rest
        status := { s.status with busy := false, done := true }
        digestBuf := md5 s.password, core := t.core, seq := ⟨.idle, 0, 0, 0⟩ }

/-- 44_encoder.md R246: what each byte of the result buffer holds after a CRYPT completion. That the string has 26 + S
bytes is an inference the spec marks as its own (R247). -/
def Obligations.ResultBufferLayout : Prop :=
  ∀ (salt : List Byte) (fd : Digest), salt.length ≤ 230 →
    (encodedHash salt fd).length = 26 + salt.length ∧
      (assemble (encodedHash salt fd)).read 0 = 0x24 ∧ (assemble (encodedHash salt fd)).read 1 = 0x31 ∧
      (assemble (encodedHash salt fd)).read 2 = 0x24 ∧
      (∀ i < salt.length, salt[i]? = some ((assemble (encodedHash salt fd)).read (3 + i))) ∧
      (assemble (encodedHash salt fd)).read (3 + salt.length) = 0x24 ∧
      (∀ g < 22, (encodeBody fd)[g]? = some ((assemble (encodedHash salt fd)).read (4 + salt.length + g))) ∧
      (∀ i, 26 + salt.length ≤ i → (assemble (encodedHash salt fd)).read i = 0)

/-- 41_commands.md R148: with no reset and no refused access to come, a running operation completes within one step
more than the events still to come, with the result of the inputs it has now. -/
def Obligations.StartedOperationCompletes : Prop :=
  ∀ s : State, s.Inv → s.status.busy = true → (∀ e ∈ s.pending, e.serves = true) →
    ∃ (k : Nat) (t : State), k ≤ s.pending.length + 1 ∧ Host.Core.run core k s = .next t ∧
      t.status.busy = false ∧ t.status.done = true ∧ t.status.op = s.status.op ∧
      (s.status.op = .crypt → t.digestBuf = finalDigest s.password s.salt ∧
        t.result = encodedHash s.salt (finalDigest s.password s.salt)) ∧
      (s.status.op = .md5 → t.digestBuf = md5 s.password ∧ t.resultLen = 0)

/-! ### The engine's own steps -/

/-- 10_state.md R45: no step of the sequencer shows in anything the host can observe, and none changes what the
completion will leave. -/
def Obligations.SequencerStepsAreInvisible : Prop :=
  ∀ s : State, s.work.hostView = s.hostView ∧ (s.SequencerSound → s.work.complete = s.complete)

/-- 43_crypt_sequencer.md R209, R211: from the start of CRYPT the sequencer's own steps reach ENCODE with altDigest in
ALT_REG and finalDigest in DIG_REG: streaming the segments computes the digests of the whole strings. -/
def Obligations.SequencerComputesFinalDigest : Prop :=
  ∀ s : State, s.status.busy = true → s.seq = ⟨.alt, 0, 0, 0⟩ →
    ∃ k : Nat, (State.work^[k] s).seq.phase = .encode ∧
      (State.work^[k] s).altReg = altDigest s.password s.salt ∧
      (State.work^[k] s).digReg = finalDigest s.password s.salt ∧
      (State.work^[k] s).core = finalCore s.password s.salt

/-- 43_crypt_sequencer.md R203, R207, R211: the streams are the strings. -/
def Obligations.StreamsAreTheStrings : Prop :=
  ∀ (pw salt : List Byte) (alt d : Digest) (i : Nat),
    (Sources.mk pw salt alt d).stream (SeqPos.mk .alt 0 0 0).segments = pw ++ salt ++ pw ∧
      (Sources.mk pw salt alt d).stream (SeqPos.mk .seed 0 0 0).segments = seedBytes pw salt alt ∧
      (Sources.mk pw salt alt d).stream (roundSegments i) = roundBytes pw salt i d

/-- 43_crypt_sequencer.md R218: no stream exceeds `2*PW_MAX + SALT_MAX + 19` bytes. -/
def Obligations.StreamLengthIsBounded : Prop :=
  ∀ s : State, s.InputsBounded →
    (s.sources.stream s.seq.segments).length ≤ 2 * s.params.pwMax + s.params.saltMax + 19

/-- 43_crypt_sequencer.md R205: one byte per bit of the length, the lowest first: null for 1, the first password byte
for 0. That there are as many as significant bits is an inference the spec marks as its own. -/
def Obligations.LengthBitsEncodeTheLength : Prop :=
  ∀ pw : List Byte, (lenBits pw).length = pw.length.size ∧
    ∀ i < pw.length.size, (lenBits pw)[i]? = some (if pw.length.testBit i then 0x00 else pw.getD 0 0)

/-! ### The MD5 core and the encoder -/

/-- 42_md5_core.md R185, 10_state.md R41: a digest computation leaves the core as if it had started from the reset
state: no value carries over. -/
def Obligations.Md5ForgetsEarlierDigests : Prop := ∀ (m : Md5Core) (bs : List Byte), md5Run m bs = md5Run .zero bs

/-- 42_md5_core.md R180, R181: after `n` bytes MLEN is `n` modulo 2^64, FILL is `n` modulo 64, and no compression is
under way. -/
def Obligations.AbsorbCountsItsBytes : Prop :=
  ∀ (m : Md5Core) (bs : List Byte), (bs.foldl md5Absorb (md5Init m)).mlen = BitVec.ofNat 64 bs.length ∧
    (bs.foldl md5Absorb (md5Init m)).fill.toNat = bs.length % 64 ∧ (bs.foldl md5Absorb (md5Init m)).t = 0

/-- 44_encoder.md R236: `v[g] = (N >> 6g) & 63`, where N is `permuted` read as a big-endian number. -/
def Obligations.EncoderClosedForm : Prop :=
  ∀ (fd : Digest) (g : Nat), g < 22 →
    groupValue (serialize (permute fd)) g =
      (permute fd).foldl (fun n b => n * 256 + b.toNat) 0 / 2 ^ (6 * g) % 64

/-- 44_encoder.md R243: the body has 22 characters, all of the alphabet, the last one of `.`, `/`, `0`, `1`. -/
def Obligations.EncodedBodyIsAlphabetText : Prop :=
  ∀ fd : Digest, (encodeBody fd).length = 22 ∧ (∀ c ∈ encodeBody fd, c ∈ alphaRom) ∧
    ∃ c, (encodeBody fd)[21]? = some c ∧ c ∈ ([0x2E, 0x2F, 0x30, 0x31] : List Byte)

/-- 44_encoder.md R243: "Every 128-bit `fd` gives a different body". -/
def Obligations.EncodedBodyLosesNothing : Prop :=
  ∀ fd gd : Digest, encodeBody fd = encodeBody gd → fd = gd

/-! ### Reset, invariants and whole-machine rules -/

/-- 70_reset_and_hazards.md R291: the reset state of an engine with any capacities, as the host reads it and inside. -/
def Obligations.ResetStateValues : Prop :=
  ∀ p : Params,
    exec .rdStatus (State.resetFor p) = .next { State.resetFor p with rdata := 0 } ∧
    exec .rdCtrl (State.resetFor p) = .next { State.resetFor p with rdata := 0 } ∧
    exec .rdErrCode (State.resetFor p) = .next { State.resetFor p with rdata := 0 } ∧
    exec .rdId (State.resetFor p) = .next { State.resetFor p with rdata := 0x4D443543 } ∧
    exec .rdVersion (State.resetFor p) = .next { State.resetFor p with rdata := 0x00010000 } ∧
    exec .rdConfig (State.resetFor p) =
      .next { State.resetFor p with rdata := BitVec.ofNat 16 p.saltMax ++ BitVec.ofNat 16 p.pwMax } ∧
    (State.resetFor p).irq = false ∧ (State.resetFor p).errInfo = 0 ∧ (State.resetFor p).pwLen = 0 ∧
    (State.resetFor p).saltLen = 0 ∧ (State.resetFor p).resultLen = 0 ∧
    (∀ a, (State.resetFor p).pwBuf.read a = 0 ∧ (State.resetFor p).saltBuf.read a = 0 ∧
      (State.resetFor p).resultBuf.read a = 0) ∧
    (∀ i < 16, (State.resetFor p).digestBuf[i]? = some 0 ∧ (State.resetFor p).altReg[i]? = some 0 ∧
      (State.resetFor p).digReg[i]? = some 0) ∧
    (State.resetFor p).core = ⟨0, 0, 0, 0, 0, 0, 0, 0, Vector.replicate 64 0, 0, 0, 0⟩ ∧
    (State.resetFor p).seq = ⟨.idle, 0, 0, 0⟩ ∧ (State.resetFor p).params = p

/-- 70_reset_and_hazards.md R290, R292, R294: a reset gives every piece of state its reset value, whatever it was, and
keeps the capacities; no operation is left to complete. The last three fields are the model's own. -/
def Obligations.ResetOverwritesEverything : Prop :=
  ∀ (s : State) (r : Bool) (rest : List Event), s.pending = .reset r :: rest →
    ∃ t, step s = .next t ∧
      t = { State.resetFor s.params with rdata := t.rdata, pending := rest, freeCount := t.freeCount } ∧
      (r = false → t.rdata = s.rdata) ∧ t.irq = false ∧ t.work = t ∧ t.complete = t

/-- 60_exceptions.md R285: "An idle engine keeps its state until reset." -/
def Obligations.IdleEngineKeepsItsState : Prop :=
  ∀ s : State, s.status.busy = false → s.work = s ∧ s.complete = s ∧ (s.pending = [] → step s = .next s)

/-- The invariant holds after reset, for every legal choice of capacities. -/
def Obligations.InvariantHoldsAtReset : Prop := State.reset.Inv ∧ ∀ p : Params, p.Legal → (State.resetFor p).Inv

/-- The invariant is kept by every step, whatever the event. -/
def Obligations.InvariantKeptByEveryStep : Prop := ∀ s t : State, s.Inv → step s = .next t → t.Inv

/-- 10_state.md R23, 70_reset_and_hazards.md R294: no step changes the capacities. -/
def Obligations.CapacitiesNeverChange : Prop := ∀ s t : State, step s = .next t → t.params = s.params

/-- 10_state.md R24, 41_commands.md R143: only a write to offset 0x010 or a reset changes CTRL (the list of
events is the model's, log entry 3). -/
def Obligations.ControlChangesOnlyByItsWriteOrReset : Prop :=
  ∀ (s t : State) (e : Event) (rest : List Event), s.pending = e :: rest → step s = .next t →
    t.ctrl ≠ s.ctrl →
    (∃ off v, wordOf off = 0x010 ∧ e = .host (access true off v)) ∨ ∃ r, e = .reset r

/-- 40_host_access.md (heading), 41_commands.md R140: an access that changes BUSY is a write of a start word to CMD. -/
def Obligations.BusyIsSetOnlyByStartCommands : Prop :=
  ∀ (tr : Transfer) (s t : State), hostAccess tr s = .next t → t.status.busy ≠ s.status.busy →
    s.status.busy = false ∧ ∃ off v, tr = access true off v ∧ wordOf off = 0x018 ∧ (v = 0x1 ∨ v = 0x2)

/-- 10_state.md R37, R38, R45: two states the host cannot tell apart stay so under every access: no access, of any
size, at any offset, tells it a byte of the input buffers or of the internal registers. -/
def Obligations.AccessesRevealNoHiddenState : Prop :=
  ∀ (tr : Transfer) (s u : State), s.hostView = u.hostView →
    (∀ t, hostAccess tr s = .next t → ∃ w, hostAccess tr u = .next w ∧ t.hostView = w.hostView) ∧
      (∀ r, hostAccess tr s = .refused r → hostAccess tr u = .refused r)
end

