-- ==== Sys2Proof/Laws/Memory.lean ====
section
/-! SUPPORT. Byte stores: every operation keeps the canonical form, reads after writes, and the store of a byte
string. -/

namespace Sys2Proof.Machine

open Sys2Proof

/-- Every listed index is at least `n`. -/
abbrev Memory.AtLeast (m : Memory) (n : Nat) : Prop := ∀ c ∈ m, n ≤ c.1

@[simp] theorem Memory.wf_nil : Memory.wf [] = true := rfl

theorem Memory.wf_cons_iff (a : Nat) (b : Byte) (m : Memory) :
    Memory.wf ((a, b) :: m) = true ↔ b ≠ 0 ∧ (∀ c ∈ m, a < c.1) ∧ m.wf = true := by
  simp [Memory.wf, and_assoc]

theorem Memory.cons_wf {x : Nat} (v : Byte) {m : Memory} (h : m.wf = true) (hm : ∀ c ∈ m, x < c.1) :
    (Memory.cons x v m).wf = true := by
  unfold Memory.cons
  split
  · exact h
  · exact (Memory.wf_cons_iff x v m).2 ⟨by assumption, hm, h⟩

theorem Memory.mem_cons {x : Nat} {v : Byte} {m : Memory} {c : Host.Cell} (h : c ∈ Memory.cons x v m) :
    c.1 = x ∨ c ∈ m := by
  unfold Memory.cons at h
  split at h
  · exact .inr h
  · rcases List.mem_cons.1 h with rfl | h
    · exact .inl rfl
    · exact .inr h

/-- A listed cell of a store after a write is the written one or was listed before. -/
theorem Memory.mem_write {m : Memory} {x : Nat} {v : Byte} {c : Host.Cell} (h : c ∈ m.write x v) :
    c.1 = x ∨ c ∈ m := by
  induction m with
  | nil => exact (Memory.mem_cons h).imp id (by simp)
  | cons d m ih =>
    obtain ⟨a, b⟩ := d
    unfold Memory.write at h
    split at h
    · exact Memory.mem_cons h
    · split at h
      · exact (Memory.mem_cons h).imp id (List.mem_cons_of_mem _)
      · rcases List.mem_cons.1 h with rfl | h
        · exact .inr List.mem_cons_self
        · exact (ih h).imp id (List.mem_cons_of_mem _)

/-- A write keeps the canonical form. -/
theorem Memory.write_wf {m : Memory} (x : Nat) (v : Byte) (h : m.wf = true) : (m.write x v).wf = true := by
  induction m with
  | nil => exact Memory.cons_wf v h (by simp)
  | cons d m ih =>
    obtain ⟨a, b⟩ := d
    obtain ⟨hb, ha, hm⟩ := (Memory.wf_cons_iff a b m).1 h
    unfold Memory.write
    split
    · rename_i hx
      refine Memory.cons_wf v h fun c hc => ?_
      rcases List.mem_cons.1 hc with rfl | hc
      · exact hx
      · exact hx.trans (ha c hc)
    · split
      · rename_i hx
        exact Memory.cons_wf v hm (hx ▸ ha)
      · refine (Memory.wf_cons_iff a b _).2 ⟨hb, fun c hc => ?_, ih hm⟩
        rcases Memory.mem_write hc with hc | hc
        · omega
        · exact ha c hc

/-- A write at an index below `n` keeps every listed index below `n`. -/
theorem Memory.write_below {m : Memory} {x n : Nat} (v : Byte) (h : m.Below n) (hx : x < n) : (m.write x v).Below n :=
  fun c hc => (Memory.mem_write hc).elim (fun e => e ▸ hx) (h c)

/-- Indexes below every listed one read 0. -/
theorem Memory.read_eq_zero_of_lt {m : Memory} {x : Nat} (h : ∀ c ∈ m, x < c.1) : m.read x = 0 := by
  cases m with
  | nil => rfl
  | cons d m =>
    have hd := h d List.mem_cons_self
    unfold Memory.read
    split
    · omega
    · simp

/-- Indexes at and beyond a bound of the listed ones read 0. -/
theorem Memory.read_eq_zero_of_below {m : Memory} {n x : Nat} (h : m.Below n) (hx : n ≤ x) : m.read x = 0 := by
  induction m with
  | nil => rfl
  | cons d m ih =>
    have hd := h d List.mem_cons_self
    have := ih fun c hc => h c (List.mem_cons_of_mem _ hc)
    unfold Memory.read
    split
    · omega
    · split
      · rfl
      · exact this

theorem Memory.read_cons_same {x : Nat} {v : Byte} {m : Memory} (hm : ∀ c ∈ m, x < c.1) :
    (Memory.cons x v m).read x = v := by
  unfold Memory.cons
  split
  · rename_i hv
    rw [hv]
    exact Memory.read_eq_zero_of_lt hm
  · simp [Memory.read]

theorem Memory.read_cons_other {x y : Nat} {v : Byte} {m : Memory} (hm : ∀ c ∈ m, x < c.1) (h : y ≠ x) :
    (Memory.cons x v m).read y = m.read y := by
  unfold Memory.cons
  split
  · rfl
  · rw [Memory.read]
    simp only [h, if_false]
    split
    · rename_i hy
      exact (Memory.read_eq_zero_of_lt fun c hc => hy.trans (hm c hc)).symm
    · rfl

/-- What a read gives after a write. -/
theorem Memory.read_write {m : Memory} (x y : Nat) (v : Byte) (h : m.wf = true) :
    (m.write x v).read y = if y = x then v else m.read y := by
  induction m with
  | nil =>
    split
    · rename_i e
      subst e
      exact Memory.read_cons_same (by simp)
    · exact Memory.read_cons_other (by simp) (by assumption)
  | cons d m ih =>
    obtain ⟨a, b⟩ := d
    obtain ⟨hb, ha, hm⟩ := (Memory.wf_cons_iff a b m).1 h
    unfold Memory.write
    split
    · rename_i hx
      have hall : ∀ c ∈ ((a, b) :: m : Memory), x < c.1 := fun c hc => by
        rcases List.mem_cons.1 hc with rfl | hc
        · exact hx
        · exact hx.trans (ha c hc)
      split
      · rename_i e
        rw [e]
        exact Memory.read_cons_same hall
      · exact Memory.read_cons_other hall (by assumption)
    · split
      · rename_i hx
        subst hx
        split
        · rename_i e
          rw [e]
          exact Memory.read_cons_same ha
        · rename_i e
          rw [Memory.read_cons_other ha e, Memory.read]
          simp only [e, if_false]
          split
          · rename_i hy
            exact Memory.read_eq_zero_of_lt fun c hc => hy.trans (ha c hc)
          · rfl
      · rw [Memory.read, Memory.read, ih hm]
        split
        · split
          · omega
          · rfl
        · split
          · split
            · omega
            · rfl
          · rfl

/-- Reading what was written. -/
theorem Memory.read_write_same {m : Memory} (x : Nat) (v : Byte) (h : m.wf = true) : (m.write x v).read x = v := by
  rw [Memory.read_write x x v h, if_pos rfl]

/-- Reading elsewhere. -/
theorem Memory.read_write_other {m : Memory} {x y : Nat} (v : Byte) (h : m.wf = true) (hy : y ≠ x) :
    (m.write x v).read y = m.read y := by
  rw [Memory.read_write x y v h, if_neg hy]

/-! ### The store of a byte string -/

theorem Memory.ofBytesFrom_bounds (bs : List Byte) :
    ∀ (x : Nat) (c : Host.Cell), c ∈ Memory.ofBytesFrom x bs → x ≤ c.1 ∧ c.1 < x + bs.length := by
  induction bs with
  | nil => simp [Memory.ofBytesFrom]
  | cons b bs ih =>
    intro x c hc
    rcases Memory.mem_cons hc with h | h
    · simp [h]
    · have := ih (x + 1) c h
      simp only [List.length_cons]
      omega

theorem Memory.ofBytesFrom_wf (bs : List Byte) : ∀ x : Nat, (Memory.ofBytesFrom x bs).wf = true := by
  induction bs with
  | nil => intro x; rfl
  | cons b bs ih =>
    intro x
    refine Memory.cons_wf b (ih (x + 1)) fun c hc => ?_
    have := Memory.ofBytesFrom_bounds bs (x + 1) c hc
    omega

/-- The store of a byte string is in canonical form. -/
theorem Memory.ofBytes_wf (bs : List Byte) : (Memory.ofBytes bs).wf = true := Memory.ofBytesFrom_wf bs 0

/-- The store of a byte string lists no index at or beyond its length. -/
theorem Memory.ofBytes_below (bs : List Byte) : (Memory.ofBytes bs).Below bs.length := fun c hc => by
  have := Memory.ofBytesFrom_bounds bs 0 c hc
  omega

theorem Memory.read_ofBytesFrom (bs : List Byte) :
    ∀ (x i : Nat), (Memory.ofBytesFrom x bs).read (x + i) = bs.getD i 0 := by
  induction bs with
  | nil => intro x i; rfl
  | cons b bs ih =>
    intro x i
    have hall : ∀ c ∈ Memory.ofBytesFrom (x + 1) bs, x < c.1 := fun c hc => by
      have := Memory.ofBytesFrom_bounds bs (x + 1) c hc
      omega
    cases i with
    | zero => exact Memory.read_cons_same hall
    | succ i =>
      have h := ih (x + 1) i
      rw [Memory.ofBytesFrom, Memory.read_cons_other hall (by omega), show x + (i + 1) = x + 1 + i by omega, h]
      rfl

/-- Byte `i` of the store of a byte string. -/
theorem Memory.read_ofBytes (bs : List Byte) (i : Nat) : (Memory.ofBytes bs).read i = bs.getD i 0 := by
  have := Memory.read_ofBytesFrom bs 0 i
  rwa [Nat.zero_add] at this

@[simp] theorem Memory.bytes_length (m : Memory) (n : Nat) : (m.bytes n).length = n := by simp [Memory.bytes]

@[simp] theorem Memory.read_nil (x : Nat) : Memory.read [] x = 0 := rfl

/-- Reading back a whole byte string. -/
theorem Memory.bytes_ofBytes (bs : List Byte) : (Memory.ofBytes bs).bytes bs.length = bs := by
  refine List.ext_getElem (by simp) fun i h₁ h₂ => ?_
  simp [Memory.bytes, Memory.read_ofBytes, h₂]

end Sys2Proof.Machine
end

