-- ==== Sys2Proof/Laws/State.lean ====
section
/-! SUPPORT. What each named update of the state does to each field it could be asked about: one lemma per field and
update. -/

namespace Sys2Proof.Machine

open Sys2Proof

variable (s : State)

/-! ### respond -/

@[simp] theorem State.respond_params (v : Word) : (s.respond v).params = s.params := rfl
@[simp] theorem State.respond_ctrl (v : Word) : (s.respond v).ctrl = s.ctrl := rfl
@[simp] theorem State.respond_status (v : Word) : (s.respond v).status = s.status := rfl
@[simp] theorem State.respond_errCode (v : Word) : (s.respond v).errCode = s.errCode := rfl
@[simp] theorem State.respond_errInfo (v : Word) : (s.respond v).errInfo = s.errInfo := rfl
@[simp] theorem State.respond_pwLen (v : Word) : (s.respond v).pwLen = s.pwLen := rfl
@[simp] theorem State.respond_saltLen (v : Word) : (s.respond v).saltLen = s.saltLen := rfl
@[simp] theorem State.respond_resultLen (v : Word) : (s.respond v).resultLen = s.resultLen := rfl
@[simp] theorem State.respond_pwBuf (v : Word) : (s.respond v).pwBuf = s.pwBuf := rfl
@[simp] theorem State.respond_saltBuf (v : Word) : (s.respond v).saltBuf = s.saltBuf := rfl
@[simp] theorem State.respond_digestBuf (v : Word) : (s.respond v).digestBuf = s.digestBuf := rfl
@[simp] theorem State.respond_resultBuf (v : Word) : (s.respond v).resultBuf = s.resultBuf := rfl
@[simp] theorem State.respond_altReg (v : Word) : (s.respond v).altReg = s.altReg := rfl
@[simp] theorem State.respond_digReg (v : Word) : (s.respond v).digReg = s.digReg := rfl
@[simp] theorem State.respond_core (v : Word) : (s.respond v).core = s.core := rfl
@[simp] theorem State.respond_seq (v : Word) : (s.respond v).seq = s.seq := rfl
@[simp] theorem State.respond_rdata (v : Word) : (s.respond v).rdata = v := rfl
@[simp] theorem State.respond_pending (v : Word) : (s.respond v).pending = s.pending := rfl
@[simp] theorem State.respond_freeCount (v : Word) : (s.respond v).freeCount = s.freeCount := rfl

/-! ### popEvent -/

@[simp] theorem State.popEvent_params (rest : List Event) : (s.popEvent rest).params = s.params := rfl
@[simp] theorem State.popEvent_ctrl (rest : List Event) : (s.popEvent rest).ctrl = s.ctrl := rfl
@[simp] theorem State.popEvent_status (rest : List Event) : (s.popEvent rest).status = s.status := rfl
@[simp] theorem State.popEvent_errCode (rest : List Event) : (s.popEvent rest).errCode = s.errCode := rfl
@[simp] theorem State.popEvent_errInfo (rest : List Event) : (s.popEvent rest).errInfo = s.errInfo := rfl
@[simp] theorem State.popEvent_pwLen (rest : List Event) : (s.popEvent rest).pwLen = s.pwLen := rfl
@[simp] theorem State.popEvent_saltLen (rest : List Event) : (s.popEvent rest).saltLen = s.saltLen := rfl
@[simp] theorem State.popEvent_resultLen (rest : List Event) : (s.popEvent rest).resultLen = s.resultLen := rfl
@[simp] theorem State.popEvent_pwBuf (rest : List Event) : (s.popEvent rest).pwBuf = s.pwBuf := rfl
@[simp] theorem State.popEvent_saltBuf (rest : List Event) : (s.popEvent rest).saltBuf = s.saltBuf := rfl
@[simp] theorem State.popEvent_digestBuf (rest : List Event) : (s.popEvent rest).digestBuf = s.digestBuf := rfl
@[simp] theorem State.popEvent_resultBuf (rest : List Event) : (s.popEvent rest).resultBuf = s.resultBuf := rfl
@[simp] theorem State.popEvent_altReg (rest : List Event) : (s.popEvent rest).altReg = s.altReg := rfl
@[simp] theorem State.popEvent_digReg (rest : List Event) : (s.popEvent rest).digReg = s.digReg := rfl
@[simp] theorem State.popEvent_core (rest : List Event) : (s.popEvent rest).core = s.core := rfl
@[simp] theorem State.popEvent_seq (rest : List Event) : (s.popEvent rest).seq = s.seq := rfl
@[simp] theorem State.popEvent_rdata (rest : List Event) : (s.popEvent rest).rdata = s.rdata := rfl
@[simp] theorem State.popEvent_pending (rest : List Event) : (s.popEvent rest).pending = rest := rfl
@[simp] theorem State.popEvent_freeCount (rest : List Event) : (s.popEvent rest).freeCount = s.freeCount := rfl

/-! ### pushEvent -/

@[simp] theorem State.pushEvent_params (e : Event) : (s.pushEvent e).params = s.params := rfl
@[simp] theorem State.pushEvent_ctrl (e : Event) : (s.pushEvent e).ctrl = s.ctrl := rfl
@[simp] theorem State.pushEvent_status (e : Event) : (s.pushEvent e).status = s.status := rfl
@[simp] theorem State.pushEvent_errCode (e : Event) : (s.pushEvent e).errCode = s.errCode := rfl
@[simp] theorem State.pushEvent_errInfo (e : Event) : (s.pushEvent e).errInfo = s.errInfo := rfl
@[simp] theorem State.pushEvent_pwLen (e : Event) : (s.pushEvent e).pwLen = s.pwLen := rfl
@[simp] theorem State.pushEvent_saltLen (e : Event) : (s.pushEvent e).saltLen = s.saltLen := rfl
@[simp] theorem State.pushEvent_resultLen (e : Event) : (s.pushEvent e).resultLen = s.resultLen := rfl
@[simp] theorem State.pushEvent_pwBuf (e : Event) : (s.pushEvent e).pwBuf = s.pwBuf := rfl
@[simp] theorem State.pushEvent_saltBuf (e : Event) : (s.pushEvent e).saltBuf = s.saltBuf := rfl
@[simp] theorem State.pushEvent_digestBuf (e : Event) : (s.pushEvent e).digestBuf = s.digestBuf := rfl
@[simp] theorem State.pushEvent_resultBuf (e : Event) : (s.pushEvent e).resultBuf = s.resultBuf := rfl
@[simp] theorem State.pushEvent_altReg (e : Event) : (s.pushEvent e).altReg = s.altReg := rfl
@[simp] theorem State.pushEvent_digReg (e : Event) : (s.pushEvent e).digReg = s.digReg := rfl
@[simp] theorem State.pushEvent_core (e : Event) : (s.pushEvent e).core = s.core := rfl
@[simp] theorem State.pushEvent_seq (e : Event) : (s.pushEvent e).seq = s.seq := rfl
@[simp] theorem State.pushEvent_rdata (e : Event) : (s.pushEvent e).rdata = s.rdata := rfl
@[simp] theorem State.pushEvent_pending (e : Event) : (s.pushEvent e).pending = e :: s.pending := rfl
@[simp] theorem State.pushEvent_freeCount (e : Event) : (s.pushEvent e).freeCount = s.freeCount := rfl

/-! ### raiseError -/

@[simp] theorem State.raiseError_params (code : ErrCode) (info : Word) :
    (s.raiseError code info).params = s.params := by
  unfold State.raiseError; split <;> rfl
@[simp] theorem State.raiseError_ctrl (code : ErrCode) (info : Word) :
    (s.raiseError code info).ctrl = s.ctrl := by
  unfold State.raiseError; split <;> rfl
@[simp] theorem State.raiseError_status (code : ErrCode) (info : Word) :
    (s.raiseError code info).status = if s.status.err then { s.status with emult := true } else { s.status with err := true } := by
  unfold State.raiseError; split <;> rfl
@[simp] theorem State.raiseError_errCode (code : ErrCode) (info : Word) :
    (s.raiseError code info).errCode = if s.status.err then s.errCode else code := by
  unfold State.raiseError; split <;> rfl
@[simp] theorem State.raiseError_errInfo (code : ErrCode) (info : Word) :
    (s.raiseError code info).errInfo = if s.status.err then s.errInfo else info := by
  unfold State.raiseError; split <;> rfl
@[simp] theorem State.raiseError_pwLen (code : ErrCode) (info : Word) :
    (s.raiseError code info).pwLen = s.pwLen := by
  unfold State.raiseError; split <;> rfl
@[simp] theorem State.raiseError_saltLen (code : ErrCode) (info : Word) :
    (s.raiseError code info).saltLen = s.saltLen := by
  unfold State.raiseError; split <;> rfl
@[simp] theorem State.raiseError_resultLen (code : ErrCode) (info : Word) :
    (s.raiseError code info).resultLen = s.resultLen := by
  unfold State.raiseError; split <;> rfl
@[simp] theorem State.raiseError_pwBuf (code : ErrCode) (info : Word) :
    (s.raiseError code info).pwBuf = s.pwBuf := by
  unfold State.raiseError; split <;> rfl
@[simp] theorem State.raiseError_saltBuf (code : ErrCode) (info : Word) :
    (s.raiseError code info).saltBuf = s.saltBuf := by
  unfold State.raiseError; split <;> rfl
@[simp] theorem State.raiseError_digestBuf (code : ErrCode) (info : Word) :
    (s.raiseError code info).digestBuf = s.digestBuf := by
  unfold State.raiseError; split <;> rfl
@[simp] theorem State.raiseError_resultBuf (code : ErrCode) (info : Word) :
    (s.raiseError code info).resultBuf = s.resultBuf := by
  unfold State.raiseError; split <;> rfl
@[simp] theorem State.raiseError_altReg (code : ErrCode) (info : Word) :
    (s.raiseError code info).altReg = s.altReg := by
  unfold State.raiseError; split <;> rfl
@[simp] theorem State.raiseError_digReg (code : ErrCode) (info : Word) :
    (s.raiseError code info).digReg = s.digReg := by
  unfold State.raiseError; split <;> rfl
@[simp] theorem State.raiseError_core (code : ErrCode) (info : Word) :
    (s.raiseError code info).core = s.core := by
  unfold State.raiseError; split <;> rfl
@[simp] theorem State.raiseError_seq (code : ErrCode) (info : Word) :
    (s.raiseError code info).seq = s.seq := by
  unfold State.raiseError; split <;> rfl
@[simp] theorem State.raiseError_rdata (code : ErrCode) (info : Word) :
    (s.raiseError code info).rdata = s.rdata := by
  unfold State.raiseError; split <;> rfl
@[simp] theorem State.raiseError_pending (code : ErrCode) (info : Word) :
    (s.raiseError code info).pending = s.pending := by
  unfold State.raiseError; split <;> rfl
@[simp] theorem State.raiseError_freeCount (code : ErrCode) (info : Word) :
    (s.raiseError code info).freeCount = s.freeCount := by
  unfold State.raiseError; split <;> rfl

/-! ### clearError -/

@[simp] theorem State.clearError_params : (s.clearError).params = s.params := rfl
@[simp] theorem State.clearError_ctrl : (s.clearError).ctrl = s.ctrl := rfl
@[simp] theorem State.clearError_status :
    (s.clearError).status = { s.status with err := false, emult := false } := rfl
@[simp] theorem State.clearError_errCode : (s.clearError).errCode = .none := rfl
@[simp] theorem State.clearError_errInfo : (s.clearError).errInfo = 0 := rfl
@[simp] theorem State.clearError_pwLen : (s.clearError).pwLen = s.pwLen := rfl
@[simp] theorem State.clearError_saltLen : (s.clearError).saltLen = s.saltLen := rfl
@[simp] theorem State.clearError_resultLen : (s.clearError).resultLen = s.resultLen := rfl
@[simp] theorem State.clearError_pwBuf : (s.clearError).pwBuf = s.pwBuf := rfl
@[simp] theorem State.clearError_saltBuf : (s.clearError).saltBuf = s.saltBuf := rfl
@[simp] theorem State.clearError_digestBuf : (s.clearError).digestBuf = s.digestBuf := rfl
@[simp] theorem State.clearError_resultBuf : (s.clearError).resultBuf = s.resultBuf := rfl
@[simp] theorem State.clearError_altReg : (s.clearError).altReg = s.altReg := rfl
@[simp] theorem State.clearError_digReg : (s.clearError).digReg = s.digReg := rfl
@[simp] theorem State.clearError_core : (s.clearError).core = s.core := rfl
@[simp] theorem State.clearError_seq : (s.clearError).seq = s.seq := rfl
@[simp] theorem State.clearError_rdata : (s.clearError).rdata = s.rdata := rfl
@[simp] theorem State.clearError_pending : (s.clearError).pending = s.pending := rfl
@[simp] theorem State.clearError_freeCount : (s.clearError).freeCount = s.freeCount := rfl

/-! ### clearDone -/

@[simp] theorem State.clearDone_params : (s.clearDone).params = s.params := rfl
@[simp] theorem State.clearDone_ctrl : (s.clearDone).ctrl = s.ctrl := rfl
@[simp] theorem State.clearDone_status : (s.clearDone).status = { s.status with done := false } := rfl
@[simp] theorem State.clearDone_errCode : (s.clearDone).errCode = s.errCode := rfl
@[simp] theorem State.clearDone_errInfo : (s.clearDone).errInfo = s.errInfo := rfl
@[simp] theorem State.clearDone_pwLen : (s.clearDone).pwLen = s.pwLen := rfl
@[simp] theorem State.clearDone_saltLen : (s.clearDone).saltLen = s.saltLen := rfl
@[simp] theorem State.clearDone_resultLen : (s.clearDone).resultLen = s.resultLen := rfl
@[simp] theorem State.clearDone_pwBuf : (s.clearDone).pwBuf = s.pwBuf := rfl
@[simp] theorem State.clearDone_saltBuf : (s.clearDone).saltBuf = s.saltBuf := rfl
@[simp] theorem State.clearDone_digestBuf : (s.clearDone).digestBuf = s.digestBuf := rfl
@[simp] theorem State.clearDone_resultBuf : (s.clearDone).resultBuf = s.resultBuf := rfl
@[simp] theorem State.clearDone_altReg : (s.clearDone).altReg = s.altReg := rfl
@[simp] theorem State.clearDone_digReg : (s.clearDone).digReg = s.digReg := rfl
@[simp] theorem State.clearDone_core : (s.clearDone).core = s.core := rfl
@[simp] theorem State.clearDone_seq : (s.clearDone).seq = s.seq := rfl
@[simp] theorem State.clearDone_rdata : (s.clearDone).rdata = s.rdata := rfl
@[simp] theorem State.clearDone_pending : (s.clearDone).pending = s.pending := rfl
@[simp] theorem State.clearDone_freeCount : (s.clearDone).freeCount = s.freeCount := rfl

/-! ### appendPw -/

@[simp] theorem State.appendPw_params (x : Byte) : (s.appendPw x).params = s.params := rfl
@[simp] theorem State.appendPw_ctrl (x : Byte) : (s.appendPw x).ctrl = s.ctrl := rfl
@[simp] theorem State.appendPw_status (x : Byte) : (s.appendPw x).status = s.status := rfl
@[simp] theorem State.appendPw_errCode (x : Byte) : (s.appendPw x).errCode = s.errCode := rfl
@[simp] theorem State.appendPw_errInfo (x : Byte) : (s.appendPw x).errInfo = s.errInfo := rfl
@[simp] theorem State.appendPw_pwLen (x : Byte) : (s.appendPw x).pwLen = s.pwLen + 1 := rfl
@[simp] theorem State.appendPw_saltLen (x : Byte) : (s.appendPw x).saltLen = s.saltLen := rfl
@[simp] theorem State.appendPw_resultLen (x : Byte) : (s.appendPw x).resultLen = s.resultLen := rfl
@[simp] theorem State.appendPw_pwBuf (x : Byte) : (s.appendPw x).pwBuf = s.pwBuf.write s.pwLen.toNat x := rfl
@[simp] theorem State.appendPw_saltBuf (x : Byte) : (s.appendPw x).saltBuf = s.saltBuf := rfl
@[simp] theorem State.appendPw_digestBuf (x : Byte) : (s.appendPw x).digestBuf = s.digestBuf := rfl
@[simp] theorem State.appendPw_resultBuf (x : Byte) : (s.appendPw x).resultBuf = s.resultBuf := rfl
@[simp] theorem State.appendPw_altReg (x : Byte) : (s.appendPw x).altReg = s.altReg := rfl
@[simp] theorem State.appendPw_digReg (x : Byte) : (s.appendPw x).digReg = s.digReg := rfl
@[simp] theorem State.appendPw_core (x : Byte) : (s.appendPw x).core = s.core := rfl
@[simp] theorem State.appendPw_seq (x : Byte) : (s.appendPw x).seq = s.seq := rfl
@[simp] theorem State.appendPw_rdata (x : Byte) : (s.appendPw x).rdata = s.rdata := rfl
@[simp] theorem State.appendPw_pending (x : Byte) : (s.appendPw x).pending = s.pending := rfl
@[simp] theorem State.appendPw_freeCount (x : Byte) : (s.appendPw x).freeCount = s.freeCount := rfl

/-! ### appendSalt -/

@[simp] theorem State.appendSalt_params (x : Byte) : (s.appendSalt x).params = s.params := rfl
@[simp] theorem State.appendSalt_ctrl (x : Byte) : (s.appendSalt x).ctrl = s.ctrl := rfl
@[simp] theorem State.appendSalt_status (x : Byte) : (s.appendSalt x).status = s.status := rfl
@[simp] theorem State.appendSalt_errCode (x : Byte) : (s.appendSalt x).errCode = s.errCode := rfl
@[simp] theorem State.appendSalt_errInfo (x : Byte) : (s.appendSalt x).errInfo = s.errInfo := rfl
@[simp] theorem State.appendSalt_pwLen (x : Byte) : (s.appendSalt x).pwLen = s.pwLen := rfl
@[simp] theorem State.appendSalt_saltLen (x : Byte) : (s.appendSalt x).saltLen = s.saltLen + 1 := rfl
@[simp] theorem State.appendSalt_resultLen (x : Byte) : (s.appendSalt x).resultLen = s.resultLen := rfl
@[simp] theorem State.appendSalt_pwBuf (x : Byte) : (s.appendSalt x).pwBuf = s.pwBuf := rfl
@[simp] theorem State.appendSalt_saltBuf (x : Byte) :
    (s.appendSalt x).saltBuf = s.saltBuf.write s.saltLen.toNat x := rfl
@[simp] theorem State.appendSalt_digestBuf (x : Byte) : (s.appendSalt x).digestBuf = s.digestBuf := rfl
@[simp] theorem State.appendSalt_resultBuf (x : Byte) : (s.appendSalt x).resultBuf = s.resultBuf := rfl
@[simp] theorem State.appendSalt_altReg (x : Byte) : (s.appendSalt x).altReg = s.altReg := rfl
@[simp] theorem State.appendSalt_digReg (x : Byte) : (s.appendSalt x).digReg = s.digReg := rfl
@[simp] theorem State.appendSalt_core (x : Byte) : (s.appendSalt x).core = s.core := rfl
@[simp] theorem State.appendSalt_seq (x : Byte) : (s.appendSalt x).seq = s.seq := rfl
@[simp] theorem State.appendSalt_rdata (x : Byte) : (s.appendSalt x).rdata = s.rdata := rfl
@[simp] theorem State.appendSalt_pending (x : Byte) : (s.appendSalt x).pending = s.pending := rfl
@[simp] theorem State.appendSalt_freeCount (x : Byte) : (s.appendSalt x).freeCount = s.freeCount := rfl

/-! ### startOperation -/

@[simp] theorem State.startOperation_params (op : Op) (first : Phase) :
    (s.startOperation op first).params = s.params := rfl
@[simp] theorem State.startOperation_ctrl (op : Op) (first : Phase) : (s.startOperation op first).ctrl = s.ctrl := rfl
@[simp] theorem State.startOperation_status (op : Op) (first : Phase) :
    (s.startOperation op first).status = { s.status with busy := true, done := false, op := op } := rfl
@[simp] theorem State.startOperation_errCode (op : Op) (first : Phase) :
    (s.startOperation op first).errCode = s.errCode := rfl
@[simp] theorem State.startOperation_errInfo (op : Op) (first : Phase) :
    (s.startOperation op first).errInfo = s.errInfo := rfl
@[simp] theorem State.startOperation_pwLen (op : Op) (first : Phase) :
    (s.startOperation op first).pwLen = s.pwLen := rfl
@[simp] theorem State.startOperation_saltLen (op : Op) (first : Phase) :
    (s.startOperation op first).saltLen = s.saltLen := rfl
@[simp] theorem State.startOperation_resultLen (op : Op) (first : Phase) :
    (s.startOperation op first).resultLen = 0 := rfl
@[simp] theorem State.startOperation_pwBuf (op : Op) (first : Phase) :
    (s.startOperation op first).pwBuf = s.pwBuf := rfl
@[simp] theorem State.startOperation_saltBuf (op : Op) (first : Phase) :
    (s.startOperation op first).saltBuf = s.saltBuf := rfl
@[simp] theorem State.startOperation_digestBuf (op : Op) (first : Phase) :
    (s.startOperation op first).digestBuf = zeroDigest := rfl
@[simp] theorem State.startOperation_resultBuf (op : Op) (first : Phase) :
    (s.startOperation op first).resultBuf = [] := rfl
@[simp] theorem State.startOperation_altReg (op : Op) (first : Phase) :
    (s.startOperation op first).altReg = s.altReg := rfl
@[simp] theorem State.startOperation_digReg (op : Op) (first : Phase) :
    (s.startOperation op first).digReg = s.digReg := rfl
@[simp] theorem State.startOperation_core (op : Op) (first : Phase) : (s.startOperation op first).core = s.core := rfl
@[simp] theorem State.startOperation_seq (op : Op) (first : Phase) :
    (s.startOperation op first).seq = ⟨first, 0, 0, 0⟩ := rfl
@[simp] theorem State.startOperation_rdata (op : Op) (first : Phase) :
    (s.startOperation op first).rdata = s.rdata := rfl
@[simp] theorem State.startOperation_pending (op : Op) (first : Phase) :
    (s.startOperation op first).pending = s.pending := rfl
@[simp] theorem State.startOperation_freeCount (op : Op) (first : Phase) :
    (s.startOperation op first).freeCount = s.freeCount := rfl

/-! ### clearAll -/

@[simp] theorem State.clearAll_params : (s.clearAll).params = s.params := rfl
@[simp] theorem State.clearAll_ctrl : (s.clearAll).ctrl = s.ctrl := rfl
@[simp] theorem State.clearAll_status :
    (s.clearAll).status = { s.status with done := false, err := false, emult := false, op := .none } := rfl
@[simp] theorem State.clearAll_errCode : (s.clearAll).errCode = .none := rfl
@[simp] theorem State.clearAll_errInfo : (s.clearAll).errInfo = 0 := rfl
@[simp] theorem State.clearAll_pwLen : (s.clearAll).pwLen = 0 := rfl
@[simp] theorem State.clearAll_saltLen : (s.clearAll).saltLen = 0 := rfl
@[simp] theorem State.clearAll_resultLen : (s.clearAll).resultLen = 0 := rfl
@[simp] theorem State.clearAll_pwBuf : (s.clearAll).pwBuf = [] := rfl
@[simp] theorem State.clearAll_saltBuf : (s.clearAll).saltBuf = [] := rfl
@[simp] theorem State.clearAll_digestBuf : (s.clearAll).digestBuf = zeroDigest := rfl
@[simp] theorem State.clearAll_resultBuf : (s.clearAll).resultBuf = [] := rfl
@[simp] theorem State.clearAll_altReg : (s.clearAll).altReg = zeroDigest := rfl
@[simp] theorem State.clearAll_digReg : (s.clearAll).digReg = zeroDigest := rfl
@[simp] theorem State.clearAll_core : (s.clearAll).core = .zero := rfl
@[simp] theorem State.clearAll_seq : (s.clearAll).seq = .idle := rfl
@[simp] theorem State.clearAll_rdata : (s.clearAll).rdata = s.rdata := rfl
@[simp] theorem State.clearAll_pending : (s.clearAll).pending = s.pending := rfl
@[simp] theorem State.clearAll_freeCount : (s.clearAll).freeCount = s.freeCount := rfl

/-! ### finish -/

@[simp] theorem State.finish_params : (s.finish).params = s.params := rfl
@[simp] theorem State.finish_ctrl : (s.finish).ctrl = s.ctrl := rfl
@[simp] theorem State.finish_status : (s.finish).status = { s.status with busy := false, done := true } := rfl
@[simp] theorem State.finish_errCode : (s.finish).errCode = s.errCode := rfl
@[simp] theorem State.finish_errInfo : (s.finish).errInfo = s.errInfo := rfl
@[simp] theorem State.finish_pwLen : (s.finish).pwLen = s.pwLen := rfl
@[simp] theorem State.finish_saltLen : (s.finish).saltLen = s.saltLen := rfl
@[simp] theorem State.finish_resultLen : (s.finish).resultLen = s.resultLen := rfl
@[simp] theorem State.finish_pwBuf : (s.finish).pwBuf = s.pwBuf := rfl
@[simp] theorem State.finish_saltBuf : (s.finish).saltBuf = s.saltBuf := rfl
@[simp] theorem State.finish_digestBuf : (s.finish).digestBuf = s.digestBuf := rfl
@[simp] theorem State.finish_resultBuf : (s.finish).resultBuf = s.resultBuf := rfl
@[simp] theorem State.finish_altReg : (s.finish).altReg = s.altReg := rfl
@[simp] theorem State.finish_digReg : (s.finish).digReg = s.digReg := rfl
@[simp] theorem State.finish_core : (s.finish).core = s.core := rfl
@[simp] theorem State.finish_seq : (s.finish).seq = .idle := rfl
@[simp] theorem State.finish_rdata : (s.finish).rdata = s.rdata := rfl
@[simp] theorem State.finish_pending : (s.finish).pending = s.pending := rfl
@[simp] theorem State.finish_freeCount : (s.finish).freeCount = s.freeCount := rfl

end Sys2Proof.Machine
end

