-- ==== Sys2Proof/Laws/Access.lean ====
section
/-! SUPPORT. What a host access can do, said once: every 32-bit access answers a next state, and that state is one of
a short list of named updates of the state before it. -/

namespace Sys2Proof.Machine

open Sys2Proof

/-- The state after recording an error, flag by flag. -/
theorem State.raiseError_eq (s : State) (code : ErrCode) (info : Word) :
    s.raiseError code info =
      { s with
        status := { s.status with err := true, emult := s.status.emult || s.status.err }
        errCode := if s.status.err then s.errCode else code
        errInfo := if s.status.err then s.errInfo else info } := by
  obtain ⟨_, _, ⟨_, _, err, _, emult⟩, _⟩ := s
  cases err <;> cases emult <;> rfl

/-- Everything one access can do to the state. -/
inductive AccessEffect (s : State) : State → Prop where
  | respond (v : Word) : AccessEffect s (s.respond v)
  | nothing : AccessEffect s s
  | raise (code : ErrCode) (info : Word) (h : code ≠ .none) : AccessEffect s (s.raiseError code info)
  | clearDone : AccessEffect s s.clearDone
  | clearError : AccessEffect s s.clearError
  | clearBoth : AccessEffect s s.clearDone.clearError
  | enables (c : Ctrl) : AccessEffect s { s with ctrl := c }
  | pushPw (x : Byte) (idle : s.status.busy = false) (room : s.pwLen.toNat ≠ s.params.pwMax) :
      AccessEffect s (s.appendPw x)
  | pushSalt (x : Byte) (idle : s.status.busy = false) (room : s.saltLen.toNat ≠ s.params.saltMax) :
      AccessEffect s (s.appendSalt x)
  | startCrypt (idle : s.status.busy = false) : AccessEffect s (s.startOperation .crypt .alt)
  | startMd5 (idle : s.status.busy = false) : AccessEffect s (s.startOperation .md5 .raw)
  | clearAll (idle : s.status.busy = false) : AccessEffect s s.clearAll

theorem execCrypt_effect (s : State) : ∃ t, execCrypt s = .next t ∧ AccessEffect s t := by
  refine ⟨_, rfl, ?_⟩
  unfold State.unlessBusy
  split
  · exact .raise _ _ (by simp)
  · exact .startCrypt (Bool.eq_false_of_not_eq_true ‹¬s.status.busy = true›)

theorem execMd5_effect (s : State) : ∃ t, execMd5 s = .next t ∧ AccessEffect s t := by
  refine ⟨_, rfl, ?_⟩
  unfold State.unlessBusy
  split
  · exact .raise _ _ (by simp)
  · exact .startMd5 (Bool.eq_false_of_not_eq_true ‹¬s.status.busy = true›)

theorem execClear_effect (s : State) : ∃ t, execClear s = .next t ∧ AccessEffect s t := by
  refine ⟨_, rfl, ?_⟩
  unfold State.unlessBusy
  split
  · exact .raise _ _ (by simp)
  · exact .clearAll (Bool.eq_false_of_not_eq_true ‹¬s.status.busy = true›)

theorem execWrStatus_effect (v : Word) (s : State) : ∃ t, execWrStatus v s = .next t ∧ AccessEffect s t := by
  unfold execWrStatus
  cases clearsDone v <;> cases clearsErr v
  · exact ⟨_, rfl, .nothing⟩
  · exact ⟨_, rfl, .clearError⟩
  · exact ⟨_, rfl, .clearDone⟩
  · exact ⟨_, rfl, .clearBoth⟩

theorem execWrPwPush_effect (v : Word) (s : State) : ∃ t, execWrPwPush v s = .next t ∧ AccessEffect s t := by
  refine ⟨_, rfl, ?_⟩
  split
  · exact .raise _ _ (by simp)
  · split
    · exact .raise _ _ (by simp)
    · exact .pushPw _ (Bool.eq_false_of_not_eq_true ‹¬s.status.busy = true›) ‹_›

theorem execWrSaltPush_effect (v : Word) (s : State) : ∃ t, execWrSaltPush v s = .next t ∧ AccessEffect s t := by
  refine ⟨_, rfl, ?_⟩
  split
  · exact .raise _ _ (by simp)
  · split
    · exact .raise _ _ (by simp)
    · exact .pushSalt _ (Bool.eq_false_of_not_eq_true ‹¬s.status.busy = true›) ‹_›

theorem execWrCmd_effect (c : Word) (s : State) : ∃ t, execWrCmd c s = .next t ∧ AccessEffect s t := by
  unfold execWrCmd
  split
  · exact ⟨_, rfl, .raise _ _ (by simp)⟩
  · split
    · exact ⟨_, rfl, .nothing⟩
    · exact execCrypt_effect s
    · exact execMd5_effect s
    · exact execClear_effect s

/-- Every instruction answers a next state, by one of the listed effects. -/
theorem exec_effect (i : Instr) (s : State) : ∃ t, exec i s = .next t ∧ AccessEffect s t := by
  cases i with
  | wrStatus v => exact execWrStatus_effect v s
  | wrCtrl v => exact ⟨_, rfl, .enables _⟩
  | wrCmd c => exact execWrCmd_effect c s
  | wrPwPush v => exact execWrPwPush_effect v s
  | wrSaltPush v => exact execWrSaltPush_effect v s
  | nop => exact ⟨_, rfl, .nothing⟩
  | crypt => exact execCrypt_effect s
  | md5 => exact execMd5_effect s
  | clear => exact execClear_effect s
  | _ => exact ⟨_, rfl, .respond _⟩

/-- A default access reads 0 or does nothing. -/
theorem execDefault_effect (a : DefaultAccess) (s : State) : ∃ t, execDefault a s = .next t ∧ AccessEffect s t := by
  cases a
  · exact ⟨_, rfl, .respond _⟩
  · exact ⟨_, rfl, .nothing⟩
  · exact ⟨_, rfl, .respond _⟩
  · exact ⟨_, rfl, .nothing⟩

/-- Every 32-bit access answers a next state, by one of the listed effects. -/
theorem hostAccess_effect {t : Transfer} (h : t.size = .word) (s : State) :
    ∃ s', hostAccess t s = .next s' ∧ AccessEffect s s' := by
  unfold hostAccess
  rw [h]
  unfold execBus
  dsimp only
  cases decodeBus t.desc t.wdata with
  | row i => exact exec_effect i s
  | unlisted a => exact execDefault_effect a s

/-- The outcome of an access is one of its effects. -/
theorem AccessEffect.of_hostAccess {t : Transfer} {s s' : State} (h : hostAccess t s = .next s') :
    AccessEffect s s' := by
  cases hs : t.size with
  | word =>
    obtain ⟨u, hu, he⟩ := hostAccess_effect hs s
    rw [h] at hu
    cases hu
    exact he
  | byte => simp [hostAccess, hs] at h
  | half => simp [hostAccess, hs] at h

end Sys2Proof.Machine
end

