-- ==== Sys2Proof/Laws/Engine.lean ====
section
/-! SUPPORT. What the engine agent's steps and a step of the machine can do, said once. -/

namespace Sys2Proof.Machine

open Sys2Proof

/-- The sequencer's step writes only the internal registers. -/
theorem State.work_frame (s : State) :
    ∃ core alt dig seq, s.work = { s with core := core, altReg := alt, digReg := dig, seq := seq } := by
  have hInit : ∃ core, s.initStream = { s with core := core } := by
    unfold State.initStream
    split
    · exact ⟨_, rfl⟩
    · exact ⟨s.core, rfl⟩
  obtain ⟨core, hInit⟩ := hInit
  have hEnd : ∀ s : State, ∃ core alt dig seq,
      s.endStream = { s with core := core, altReg := alt, digReg := dig, seq := seq } := by
    intro s
    unfold State.endStream
    dsimp only
    split
    · exact ⟨_, _, s.digReg, _, rfl⟩
    · exact ⟨_, s.altReg, _, _, rfl⟩
    · exact ⟨_, s.altReg, _, _, rfl⟩
    all_goals exact ⟨s.core, s.altReg, s.digReg, s.seq, rfl⟩
  have hStream : ∃ core alt dig seq,
      s.initStream.streamStep = { s with core := core, altReg := alt, digReg := dig, seq := seq } := by
    rw [hInit]
    unfold State.streamStep
    split
    · split
      · exact ⟨_, s.altReg, s.digReg, _, rfl⟩
      · exact ⟨core, s.altReg, s.digReg, _, rfl⟩
    · obtain ⟨core', alt, dig, seq, h⟩ := hEnd { s with core := core }
      exact ⟨core', alt, dig, seq, h⟩
  unfold State.work
  split
  · split
    · exact ⟨s.core, s.altReg, s.digReg, s.seq, rfl⟩
    · exact ⟨s.core, s.altReg, s.digReg, s.seq, rfl⟩
    all_goals exact hStream
  · exact ⟨s.core, s.altReg, s.digReg, s.seq, rfl⟩

/-- The completion step is one of the two completions, or does nothing where none is enabled. -/
theorem State.complete_cases (s : State) :
    (s.status.busy = true ∧ s.status.op = .crypt ∧ s.complete = s.completeCrypt) ∨
      (s.status.busy = true ∧ s.status.op = .md5 ∧ s.complete = s.completeMd5) ∨
      ((s.status.busy = false ∨ s.status.op = .none) ∧ s.complete = s) := by
  cases hb : s.status.busy with
  | false => exact .inr (.inr ⟨.inl rfl, by simp [State.complete, hb]⟩)
  | true =>
    cases ho : s.status.op with
    | crypt => exact .inl ⟨rfl, rfl, by simp [State.complete, hb, ho]⟩
    | md5 => exact .inr (.inl ⟨rfl, rfl, by simp [State.complete, hb, ho]⟩)
    | none => exact .inr (.inr ⟨.inr rfl, by simp [State.complete, hb, ho]⟩)

/-- Everything one step can do: an effect of a host access, a step of the engine agent, or a reset. -/
theorem step_cases {s t : State} (h : step s = .next t) :
    (s.pending = [] ∧ t = s.complete) ∨
      ∃ e rest, s.pending = e :: rest ∧
        ((∃ tr, e = .host tr ∧ hostAccess tr (s.popEvent rest) = .next t ∧ AccessEffect (s.popEvent rest) t) ∨
          (e = .work ∧ t = (s.popEvent rest).work) ∨
          (e = .complete ∧ t = (s.popEvent rest).complete) ∨
          (∃ r, e = .reset r ∧ t = (s.popEvent rest).applyReset r)) := by
  unfold step at h
  split at h
  · cases h
    exact .inl ⟨‹_›, rfl⟩
  · refine .inr ⟨_, _, ‹_›, ?_⟩
    unfold runEvent at h
    split at h
    · exact .inl ⟨_, rfl, h, .of_hostAccess h⟩
    · cases h
      exact .inr (.inl ⟨rfl, rfl⟩)
    · cases h
      exact .inr (.inr (.inl ⟨rfl, rfl⟩))
    · cases h
      exact .inr (.inr (.inr ⟨_, rfl, rfl⟩))

/-! ### The MD5 core between steps -/

theorem md5Steps_t (n : Nat) (m : Md5Core) : (md5Steps n m).t = m.t + BitVec.ofNat 6 n := by
  induction n with
  | zero => simp [md5Steps]
  | succ n ih =>
    rw [md5Steps]
    show (md5Steps n m).t + 1 = _
    rw [ih, BitVec.add_assoc, BitVec.ofNat_add]
    rfl

@[simp] theorem md5Compress_t (m : Md5Core) : (md5Compress m).t = 0 := by
  show (md5Steps 64 m.loadWorking).t = 0
  rw [md5Steps_t]
  rfl

@[simp] theorem md5Compress_fill (m : Md5Core) : (md5Compress m).fill = 0 := rfl

@[simp] theorem md5Final_t (m : Md5Core) : (md5Final m).t = 0 := md5Compress_t _

@[simp] theorem md5Final_fill (m : Md5Core) : (md5Final m).fill = 0 := rfl

@[simp] theorem md5Init_t (m : Md5Core) : (md5Init m).t = 0 := rfl

@[simp] theorem md5Init_fill (m : Md5Core) : (md5Init m).fill = 0 := rfl

end Sys2Proof.Machine
end

