-- ==== Sys2Proof/Laws/HostProgram.lean ====
section
/-! SUPPORT. What one line of a host program does: it is over after its access, or it is repeated. -/

namespace Sys2Proof.Machine

open Sys2Proof

@[simp] theorem HostRun.mapValue_state {α β : Type} (r : HostRun α) (f : α → β) : (r.mapValue f).state = r.state := rfl
@[simp] theorem HostRun.mapValue_gaps {α β : Type} (r : HostRun α) (f : α → β) : (r.mapValue f).gaps = r.gaps := rfl
@[simp] theorem HostRun.mapValue_value {α β : Type} (r : HostRun α) (f : α → β) :
    (r.mapValue f).value = f r.value := rfl

@[simp] theorem runEvents_nil (s : State) : runEvents [] s = some s := rfl

@[simp] theorem runOps_nil (gaps : List (List Event)) (s : State) : runOps gaps [] s = some ⟨s, gaps, []⟩ := by
  cases gaps <;> rfl

/-- A line that is over after its access hands on its value, and the next line follows. -/
theorem runOps_over {es : List Event} {s s' t : State} {op : HostOp} (gaps : List (List Event)) (ops : List HostOp)
    (he : runEvents es s = some s') (ha : hostAccess op.transfer s' = .next t) (ho : op.over t.rdata = true) :
    runOps (es :: gaps) (op :: ops) s =
      (runOps gaps ops t).map (fun r => r.mapValue (fun ws => op.values t.rdata ++ ws)) := by
  simp [runOps, he, ha, ho]

/-- A line that is not over after its access, a poll whose flag does not show, is repeated. -/
theorem runOps_again {es : List Event} {s s' t : State} {op : HostOp} (gaps : List (List Event)) (ops : List HostOp)
    (he : runEvents es s = some s') (ha : hostAccess op.transfer s' = .next t) (ho : op.over t.rdata = false) :
    runOps (es :: gaps) (op :: ops) s = runOps gaps (op :: ops) t := by
  simp [runOps, he, ha, ho]

end Sys2Proof.Machine
end

