-- ==== Sys2Proof/Laws/PerInstr.lean ====
section
/-! SUPPORT. A statement about every instruction as syntax, and its lemma per constructor. -/

namespace Sys2Proof.Laws.EncodedForm

open Sys2Proof

/-- Whether the row's accesses carry write data: the W column of spec 30_encoding.md R85. -/
def carriesData : Instr → Bool
  | .wrStatus _ | .wrCtrl _ | .wrCmd _ | .wrPwPush _ | .wrSaltPush _ => true
  | _ => false

/-- The form of each format: a BUS descriptor addresses an aligned word and has W set exactly for a write (R81, R85);
a CMD word has RES = 0 and an opcode below 4 (R82, R84). -/
def formed (data : Bool) : Encoded → Bool
  | .bus d _ => !d.getLsbD 0 && !d.getLsbD 1 && isWrite d == data
  | .cmd c => Machine.cmdRes c == 0 && decide ((Machine.cmdOp c).toNat < 4)

/-- The encoder's output has the form of its format. -/
def Statement (i : Instr) : Prop := i.WellFormed → formed (carriesData i) (encode i) = true

theorem rdId : Statement .rdId := fun _ => rfl
theorem rdVersion : Statement .rdVersion := fun _ => rfl
theorem rdConfig : Statement .rdConfig := fun _ => rfl
theorem rdStatus : Statement .rdStatus := fun _ => rfl
theorem wrStatus (v : Word) : Statement (.wrStatus v) := fun _ => rfl
theorem rdCtrl : Statement .rdCtrl := fun _ => rfl
theorem wrCtrl (v : Word) : Statement (.wrCtrl v) := fun _ => rfl
theorem wrCmd (c : Word) : Statement (.wrCmd c) := fun _ => rfl
theorem rdErrCode : Statement .rdErrCode := fun _ => rfl
theorem rdErrInfo : Statement .rdErrInfo := fun _ => rfl
theorem rdPwLen : Statement .rdPwLen := fun _ => rfl
theorem rdSaltLen : Statement .rdSaltLen := fun _ => rfl
theorem rdResultLen : Statement .rdResultLen := fun _ => rfl

theorem rdDigest (k : Nat) : Statement (.rdDigest k) := fun h => by
  have hk : k < 4 := of_decide_eq_true h
  have : ∀ k < 4, formed false (.bus (BitVec.ofNat 10 (0x040 + 4 * k)) 0) = true := by decide
  exact this k hk

theorem wrPwPush (v : Word) : Statement (.wrPwPush v) := fun _ => rfl
theorem wrSaltPush (v : Word) : Statement (.wrSaltPush v) := fun _ => rfl

theorem rdResult (w : Nat) : Statement (.rdResult w) := fun h => by
  have hw : w < 64 := of_decide_eq_true h
  have : ∀ w < 64, formed false (.bus (BitVec.ofNat 10 (0x100 + 4 * w)) 0) = true := by decide
  exact this w hw

theorem nop : Statement .nop := fun _ => rfl
theorem crypt : Statement .crypt := fun _ => rfl
theorem md5 : Statement .md5 := fun _ => rfl
theorem clear : Statement .clear := fun _ => rfl

end Sys2Proof.Laws.EncodedForm
end

