-- ==== Sys2Proof/Tests/Slice0.lean ====
section
/-! SUPPORT. Tests: decoding of words written out from the spec's tables, effects taken from spec/95_test_vectors.md and
the rules' own examples, and for each statement with hypotheses a concrete case that meets them. -/

namespace Sys2Proof.Tests

open Sys2Proof Sys2Proof.Machine

/-! ### Helpers -/

/-- Whether an outcome is a next state with a property. -/
def after (o : Out) (p : State → Bool) : Bool :=
  match o with
  | .next t => p t
  | .fault _ => false
  | .refused _ => false

/-- An idle engine with two password bytes of room, as after reset. -/
def idle : State := State.resetFor ⟨2, 8⟩

/-- The same engine while CRYPT runs. -/
def busy : State := idle.startOperation .crypt .alt

/-- The same engine while MD5 runs. -/
def busyMd5 : State := idle.startOperation .md5 .raw

/-- Both input buffers full. -/
def full : State :=
  { idle with
    pwLen := 2, pwBuf := [(0, 0x61), (1, 0x62)]
    saltLen := 8, saltBuf := [(0, 1), (1, 1), (2, 1), (3, 1), (4, 1), (5, 1), (6, 1), (7, 1)] }

/-- DONE, ERR and EMULT set, with code 1 and information 7 (start state of V31). -/
def flagged : State :=
  { idle with status := ⟨false, true, true, .crypt, true⟩, errCode := .illegalCmd, errInfo := 7 }

/-! ### WellFormed: an ill-formed term for each check, and the last well-formed one -/

theorem test_wellFormed_rdDigest : ¬ (Instr.rdDigest 4).WellFormed ∧ (Instr.rdDigest 3).WellFormed := by decide
theorem test_wellFormed_rdResult : ¬ (Instr.rdResult 64).WellFormed ∧ (Instr.rdResult 63).WellFormed := by decide

/-! ### Decoding: one word for each row, from 30_encoding.md R84 and R85 (W in bit 9, OFF in bits 8:0) -/

theorem test_decode_rdId : decodeTableWord 16 0b0000000000 = some .rdId := by decide
theorem test_decode_rdVersion : decodeTableWord 16 0b0000000100 = some .rdVersion := by decide
theorem test_decode_rdConfig : decodeTableWord 16 0b0000001000 = some .rdConfig := by decide
theorem test_decode_rdStatus : decodeTableWord 16 0b0000010100 = some .rdStatus := by decide
theorem test_decode_wrStatus : decodeTableWord 48 0x000000060214 = some (.wrStatus 6) := by decide
theorem test_decode_rdCtrl : decodeTableWord 16 0b0000010000 = some .rdCtrl := by decide
theorem test_decode_wrCtrl : decodeTableWord 48 0xFFFFFFFF0210 = some (.wrCtrl 0xFFFFFFFF) := by decide
theorem test_decode_wrCmd : decodeTableWord 48 0x000000130218 = some (.wrCmd 0x13) := by decide
theorem test_decode_rdErrCode : decodeTableWord 16 0b0000011100 = some .rdErrCode := by decide
theorem test_decode_rdErrInfo : decodeTableWord 16 0b0000100000 = some .rdErrInfo := by decide
theorem test_decode_rdPwLen : decodeTableWord 16 0b0000100100 = some .rdPwLen := by decide
theorem test_decode_rdSaltLen : decodeTableWord 16 0b0000101000 = some .rdSaltLen := by decide
theorem test_decode_rdResultLen : decodeTableWord 16 0b0000101100 = some .rdResultLen := by decide
theorem test_decode_rdDigest : decodeTableWord 16 0b0001001100 = some (.rdDigest 3) := by decide
theorem test_decode_wrPwPush : decodeTableWord 48 0x000001720230 = some (.wrPwPush 0x172) := by decide
theorem test_decode_wrSaltPush : decodeTableWord 48 0x000000240234 = some (.wrSaltPush 0x24) := by decide
theorem test_decode_rdResult : decodeTableWord 16 0b0100100000 = some (.rdResult 8) := by decide
theorem test_decode_nop : decodeTableWord 32 0x00000000 = some .nop := by decide
theorem test_decode_crypt : decodeTableWord 32 0x00000001 = some .crypt := by decide
theorem test_decode_md5 : decodeTableWord 32 0x00000002 = some .md5 := by decide
theorem test_decode_clear : decodeTableWord 32 0x00000003 = some .clear := by decide

/-- V30: `rd @0x001` is `rd ID`; the reserved and malformed encodings name no row. -/
theorem test_decode_others :
    decodeTableWord 16 0x001 = some .rdId ∧ decodeTableWord 16 0x00C = none ∧ decodeTableWord 16 0x0FC = none ∧
      decodeTableWord 16 0x200 = none ∧ decodeTableWord 16 0x400 = none ∧ decodeTableWord 32 0x4 = none ∧
      decodeTableWord 32 0x10 = none ∧ decodeTableWord 32 0x80000001 = none := by decide

/-! ### The first step after reset runs a row's word -/

theorem test_fetch_rdConfig : after (step (State.reset.withFetchWord 16 0x008)) (fun t => t.rdata == 0x00400100) := by
  decide

theorem test_fetch_crypt :
    after (step (State.reset.withFetchWord 32 0x1)) (fun t => t.statusWord == 0x11 && t.seq.phase == .alt) := by decide

/-! ### Reads: V30, V34 -/

theorem test_rdId : after (exec .rdId State.reset) (fun t => t.rdata == 0x4D443543) := by decide
theorem test_rdVersion : after (exec .rdVersion State.reset) (fun t => t.rdata == 0x00010000) := by decide
theorem test_rdConfig : after (exec .rdConfig State.reset) (fun t => t.rdata == 0x00400100) := by decide

/-- R271: STATUS is 0x4C with IE_ERR and 0x44 without, after two errors. -/
theorem test_rdStatus :
    after (exec .rdStatus { flagged with status := ⟨false, false, true, .none, true⟩, ctrl := ⟨false, true⟩ })
      (fun t => t.rdata == 0x4C) := by decide

theorem test_rdStatus_done :
    after (exec .rdStatus { idle with status := ⟨false, true, false, .crypt, false⟩, ctrl := ⟨true, false⟩ })
      (fun t => t.rdata == 0x1A) := by decide

theorem test_rdCtrl : after (exec .rdCtrl { idle with ctrl := ⟨true, true⟩ }) (fun t => t.rdata == 3) := by decide
theorem test_rdErrCode : after (exec .rdErrCode flagged) (fun t => t.rdata == 1) := by decide
theorem test_rdErrInfo : after (exec .rdErrInfo flagged) (fun t => t.rdata == 7) := by decide
theorem test_rdPwLen : after (exec .rdPwLen full) (fun t => t.rdata == 2) := by decide
theorem test_rdSaltLen : after (exec .rdSaltLen full) (fun t => t.rdata == 8) := by decide
theorem test_rdResultLen : after (exec .rdResultLen { idle with resultLen := 34 }) (fun t => t.rdata == 34) := by decide

/-- R114: finalDigest beginning af d3 9f 09 reads 0x099FD3AF. -/
theorem test_rdDigest :
    after (exec (.rdDigest 0) { idle with digestBuf := #v[0xaf, 0xd3, 0x9f, 0x09, 0, 0, 0, 0, 0, 0, 0, 0, 0, 0, 0, 0] })
      (fun t => t.rdata == 0x099FD3AF) := by decide

/-- R117: the bytes "w0" at the end of the string read 0x00003077. -/
theorem test_rdResult :
    after (exec (.rdResult 8) { idle with resultBuf := [(32, 0x77), (33, 0x30)] }) (fun t => t.rdata == 0x00003077) := by
  decide

/-! ### Writes: V31, V33 -/

theorem test_wrStatus_done :
    after (exec (.wrStatus 0x2) flagged)
      (fun t => !t.status.done && t.status.err && t.status.emult && t.errCode == .illegalCmd) := by decide

theorem test_wrStatus_err :
    after (exec (.wrStatus 0x4) flagged)
      (fun t => t.status.done && !t.status.err && !t.status.emult && t.errCode == .none && t.errInfo == 0) := by decide

theorem test_wrCtrl : after (exec (.wrCtrl 0x1) flagged) (fun t => t.irq && t.ctrlWord == 1) := by decide

/-- R115: `wr PW_PUSH, 0x172` sets PW_BUF[0] = 0x72 and PW_LEN = 1. -/
theorem test_wrPwPush :
    after (exec (.wrPwPush 0x172) State.reset) (fun t => t.pwLen == 1 && t.pwBuf.read 0 == 0x72 && !t.status.err) := by
  decide

theorem test_wrPwPush_full :
    after (exec (.wrPwPush 0x41) full) (fun t => t.errCode == .pwOverflow && t.errInfo == 0x41 && t.pwLen == 2) := by
  decide

theorem test_wrSaltPush_busy :
    after (exec (.wrSaltPush 0x1FF) busy) (fun t => t.errCode == .busy && t.errInfo == 0x00FF0034 && t.saltLen == 0) := by
  decide

theorem test_wrSaltPush_full :
    after (exec (.wrSaltPush 0x24) full) (fun t => t.errCode == .saltOverflow && t.errInfo == 0x24) := by decide

/-! ### Commands: V32 -/

theorem test_wrCmd_malformed :
    after (exec (.wrCmd 0x13) busy) (fun t => t.errCode == .illegalCmd && t.errInfo == 0x13 && t.status.busy) := by decide

theorem test_wrCmd_clear :
    after (exec (.wrCmd 0x3) { full with status := ⟨false, false, true, .none, false⟩, ctrl := ⟨true, true⟩ })
      (fun t => t.pwLen == 0 && t.pwBuf == [] && t.ctrlWord == 3 && t.statusWord == 0) := by decide

theorem test_nop : after (exec .nop busy) (fun t => t.status.busy && !t.status.err) := by decide

theorem test_crypt : after (exec .crypt flagged) (fun t => t.status.busy && !t.status.done && t.status.err) := by decide

theorem test_crypt_busy : after (exec .crypt busy) (fun t => t.errCode == .busy && t.errInfo == 0x00010018) := by decide

theorem test_md5 : after (exec .md5 idle) (fun t => t.statusWord == 0x21 && t.seq.phase == .raw) := by decide

theorem test_clear_busy : after (exec .clear busy) (fun t => t.errCode == .busy && t.errInfo == 0x00030018) := by decide

/-! ### The engine: V10, V12, V13, V21, R164, R166 -/

/-- The block of "abc" with its padding, from the initial values (V10). -/
def abcCore : Md5Core :=
  { md5Init Md5Core.zero with
    blk := ((((Vector.replicate 64 0).set 0 0x61).set 1 0x62).set 2 0x63).set 3 0x80 |>.set 56 0x18 }

theorem test_md5Step_0 :
    let m := abcCore.loadWorking
    m.stepSum = 0x57CE06D8 ∧ (md5Step m).a = 0x10325476 ∧ (md5Step m).b = 0xD6D117B4 ∧
      (md5Step m).c = 0xEFCDAB89 ∧ (md5Step m).d = 0x98BADCFE := by decide

theorem test_md5Step_1 : (md5Step (md5Step abcCore.loadWorking)).b = 0x344A8432 := by decide

set_option maxRecDepth 20000 in
theorem test_md5Compress : (md5Compress abcCore).h0 = 0x98500190 ∧ (md5Compress abcCore).h3 = 0x727FE128 := by decide

set_option maxRecDepth 20000 in
theorem test_md5_empty : (md5 []).toList.take 4 = [0xd4, 0x1d, 0x8c, 0xd9] := by decide

theorem test_lenBits_9 : lenBits [0x72, 0x65, 0x64, 0x68, 0x61, 0x74, 0x31, 0x32, 0x33] = [0x00, 0x72, 0x72, 0x00] := by
  decide

theorem test_encodeBody_zero : encodeBody (Vector.replicate 16 0) = List.replicate 22 0x2E := by decide

/-- With `fd[k] = k` the body is `AM..BQE.CUU.DYk.3c./9.` (V21). -/
theorem test_encodeBody_counting :
    encodeBody #v[0, 1, 2, 3, 4, 5, 6, 7, 8, 9, 10, 11, 12, 13, 14, 15] =
      [0x41, 0x4D, 0x2E, 0x2E, 0x42, 0x51, 0x45, 0x2E, 0x43, 0x55, 0x55, 0x2E, 0x44, 0x59, 0x6B, 0x2E, 0x33, 0x63,
        0x2E, 0x2F, 0x39, 0x2E] := by decide

/-- The first step of ALT with an empty password goes on to the next segment, with the core initialised. -/
theorem test_work : busy.work.seq.seg = 1 ∧ busy.work.core.h0 = 0x67452301 := by decide

/-- V35: reset during an operation. -/
theorem test_reset :
    after (step { busy with ctrl := ⟨true, true⟩, pending := [.reset false] })
      (fun t => t.statusWord == 0 && t.ctrlWord == 0 && t.seq.phase == .idle && !t.irq) := by decide

/-! ### Host programs: R90, R91 -/

/-- `wait` repeats its read until BUSY is 0: here until a reset before the third read. -/
theorem test_wait :
    (runProgram [[], []] [.wait] busyMd5).isNone ∧
      (runProgram [[], [], [.reset false]] [.wait] busyMd5).map (fun r => r.state.status.busy) = some false := by
  decide

theorem test_pushPw :
    (runProgram [[], [], []] [.pushPw [0x61, 0x62], .op (.rd .pwLen)] idle).map (fun r => r.value) = some [.word 2] := by
  decide

/-- An engine whose result string is "ab$cd", 5 bytes. -/
def fiveBytes : State :=
  { idle with resultLen := 5, resultBuf := [(0, 0x61), (1, 0x62), (2, 0x24), (3, 0x63), (4, 0x64)] }

/-- `read_result` reads ceil(5/4) words and keeps 5 bytes. -/
theorem test_readResult :
    (runProgram [[], [], []] [.readResult] fiveBytes).map (fun r => r.value) =
      some [.bytes [0x61, 0x62, 0x24, 0x63, 0x64]] := by decide

/-- After a reset before its first read, `read_result` reads no word. -/
theorem test_readResult_reset :
    (runProgram [[.reset false]] [.readResult] fiveBytes).map (fun r => r.value) = some [.bytes []] := by decide

/-! ### Witnesses: each statement's hypotheses are met -/

theorem witness_DecodeInvertsEncode : (Instr.rdResult 63).WellFormed ∧ (Instr.rdDigest 0).WellFormed := by decide

theorem witness_StepRunsDecodedInstruction :
    decode (.bus 0x000 0) = some .rdId ∧ decodeBus 0x00C 0 = .unlisted .readReserved ∧
      ({ idle with pending := [.host ⟨.word, 0x000, 0⟩] } : State).pending = [.host ⟨.word, 0x000, 0⟩] := by decide

theorem witness_StepTakesTheNextEvent :
    idle.pending = [] ∧ ({ idle with pending := [.host ⟨.half, 0, 0⟩] } : State).pending = [.host ⟨.half, 0, 0⟩] ∧
      ({ idle with pending := [.work] } : State).pending = [.work] ∧
      ({ idle with pending := [.complete] } : State).pending = [.complete] ∧
      ({ idle with pending := [.reset true] } : State).pending = [.reset true] := by decide

theorem witness_BusAddressesSelectTheWindow :
    (511 < 512 ∧ Config.base + 511 = Config.base + 511) ∧ Config.base + 512 ≤ Config.base + 512 :=
  ⟨⟨by decide, rfl⟩, le_rfl⟩

theorem witness_IdentityAndConfigurationReads :
    Params.reference.Legal ∧ Params.Legal ⟨1, 8⟩ ∧ Params.Legal ⟨65535, 230⟩ := by decide

theorem witness_ErrorRegistersRead : idle.ErrorRecordSound ∧ idle.status.err = false := by decide

/-- The last index of each range, for DigestViewIsLittleEndian, EncoderClosedForm and ResetStateValues. -/
theorem witness_indexes : 3 < 4 ∧ 21 < 22 ∧ 15 < 16 := by decide

theorem witness_ResultViewIsLittleEndian : idle.ResultsSound ∧ idle.resultLen.toNat ≤ 4 * 63 + 3 := by decide

theorem witness_ResultsReadZeroWhileBusy : busy.ResultsSound ∧ busy.status.busy = true := by decide

theorem witness_UnlistedAccessesReadZeroOrAreIgnored :
    Reserved (wordOf 0x00F) ∧ Reserved (wordOf 0x038) ∧ Reserved (wordOf 0x03F) ∧ Reserved (wordOf 0x050) ∧
      Reserved (wordOf 0x0FF) ∧ wordOf 0x01B = 0x018 ∧ wordOf 0x037 = 0x034 ∧ wordOf 0x00B < 0x00C ∧
      wordOf 0x01C = 0x01C ∧ wordOf 0x02F = 0x02C ∧ wordOf 0x040 = 0x040 ∧ wordOf 0x04F = 0x04C ∧
      0x100 ≤ wordOf 0x100 ∧ 0x100 ≤ wordOf 0x1FF := by decide

theorem witness_RaiseRecordsTheFirstError : idle.status.err = false ∧ flagged.status.err = true := by decide

theorem witness_FirstErrorIsKept :
    after (hostAccess ⟨.word, 0x218, 0x9⟩ flagged) (fun t => t.status.err) ∧ flagged.status.err = true := by decide

/-- An access that raises an error, where none and where one is recorded. -/
theorem witness_ErrorsArePrecise :
    after (hostAccess ⟨.word, 0x218, 0x7⟩ idle.clearError) (fun u => u.status.err) ∧
      after (hostAccess ⟨.word, 0x218, 0x7⟩ flagged.clearError) (fun u => u.status.err) := by decide

theorem witness_ErrorPriority :
    let s := { full with status := busy.status }
    s.status.busy = true ∧ s.status.err = false ∧ IllegalWord 0x13 ∧ s.pwLen.toNat = s.params.pwMax ∧
      s.saltLen.toNat = s.params.saltMax := by decide

theorem witness_BusyRefusesExactlyPushesAndCommands :
    busy.status.busy = true ∧ busy.status.err = false ∧ busy.errCode = .none ∧ wordOf 0x030 = 0x030 ∧
      wordOf 0x037 = 0x034 ∧ (wordOf 0x018 = 0x018 ∧ 1 ≤ (0x3 : Word).toNat ∧ (0x3 : Word).toNat ≤ 3) ∧
      ¬(wordOf 0x018 = 0x030 ∨ wordOf 0x018 = 0x034 ∨ wordOf 0x018 = 0x018 ∧ 1 ≤ (0x4 : Word).toNat ∧
        (0x4 : Word).toNat ≤ 3) := by decide

theorem witness_PasswordPushOutcome :
    (busy.pwBuf.wf = true ∧ busy.status.busy = true) ∧
      (full.pwBuf.wf = true ∧ full.status.busy = false ∧ full.pwLen.toNat = full.params.pwMax) ∧
      (idle.pwBuf.wf = true ∧ idle.status.busy = false ∧ idle.pwLen.toNat ≠ idle.params.pwMax) := by decide

theorem witness_SaltPushOutcome :
    (busy.saltBuf.wf = true ∧ busy.status.busy = true) ∧
      (full.saltBuf.wf = true ∧ full.status.busy = false ∧ full.saltLen.toNat = full.params.saltMax) ∧
      (idle.saltBuf.wf = true ∧ idle.status.busy = false ∧ idle.saltLen.toNat ≠ idle.params.saltMax) := by decide

theorem witness_PushesAppendToTheInputs :
    idle.StoresCanonical ∧ idle.InputsBounded ∧ idle.status.busy = false ∧ idle.pwLen.toNat ≠ idle.params.pwMax ∧
      idle.saltLen.toNat ≠ idle.params.saltMax := by decide

/-- Two password bytes and eight salt bytes fit an engine after reset. -/
theorem witness_PseudoOperationsMoveStrings :
    idle.StoresCanonical ∧ idle.InputsBounded ∧ idle.status.busy = false ∧
      idle.pwLen.toNat + [0x61, 0x62].length ≤ idle.params.pwMax ∧
      idle.saltLen.toNat + (List.replicate 8 (0x24 : Byte)).length ≤ idle.params.saltMax ∧
      runEvents [.reset false] busy = some idle ∧ idle.ResultsSound := by decide

theorem witness_RunningOperationIsUndisturbed :
    after (hostAccess ⟨.word, 0x230, 0x41⟩ busy) (fun _ => true) ∧ busy.status.busy = true := by decide

theorem witness_IllegalCommandRecordsItsWord :
    IllegalWord 0x4 ∧ IllegalWord 0xF ∧ IllegalWord 0x10 ∧ IllegalWord 0x80000001 ∧ ¬ IllegalWord 0x3 := by decide

theorem witness_CommandWordRunsItsInstruction : decode (.cmd 0x3) = some .clear := by decide

/-- For CryptStartsOperation, Md5StartsOperation and ClearLeavesOnlyControl: both clauses. -/
theorem witness_commands : idle.status.busy = false ∧ busy.status.busy = true := by decide

theorem witness_CryptCompletionPublishesTheHash :
    busy.status.busy = true ∧ busy.status.op = .crypt ∧ busy.saltLen.toNat ≤ 230 ∧ busy.pending = [] ∧
      ({ busy with pending := [.complete, .work] } : State).pending = .complete :: [.work] := by decide

theorem witness_Md5CompletionPublishesTheDigest :
    busyMd5.status.busy = true ∧ busyMd5.status.op = .md5 ∧ busyMd5.pending = [] ∧
      ({ busyMd5 with pending := [.complete, .work] } : State).pending = .complete :: [.work] := by decide

theorem witness_ResultBufferLayout :
    (List.replicate 230 (0x24 : Byte)).length ≤ 230 ∧ 229 < (List.replicate 230 (0x24 : Byte)).length ∧ 21 < 22 ∧
      26 + (List.replicate 230 (0x24 : Byte)).length ≤ 256 := by
  rw [List.length_replicate]
  omega

/-- Events that come while an operation runs. -/
def someEvents : List Event := [.work, .host ⟨.word, 0x230, 0x41⟩, .host ⟨.word, 0x014, 0⟩]

/-- For StartedOperationCompletes: an operation of each kind with events still to come. -/
theorem witness_StartedOperationCompletes_crypt :
    ({ busy with pending := someEvents } : State).Inv ∧ busy.status.busy = true ∧ busy.status.op = .crypt := by decide

theorem witness_StartedOperationCompletes_md5 :
    ({ busyMd5 with pending := someEvents } : State).Inv ∧ busyMd5.status.busy = true ∧ busyMd5.status.op = .md5 := by
  decide

theorem witness_StartedOperationCompletes_events : ∀ e ∈ someEvents, e.serves = true := by decide

theorem witness_SequencerStepsAreInvisible : busy.SequencerSound ∧ busyMd5.SequencerSound ∧ idle.SequencerSound := by
  decide

theorem witness_SequencerComputesFinalDigest : busy.status.busy = true ∧ busy.seq = ⟨.alt, 0, 0, 0⟩ := by decide

theorem witness_StreamLengthIsBounded : full.InputsBounded ∧ full.seq.segments = [] ∧ busy.InputsBounded := by decide

theorem witness_LengthBitsEncodeTheLength : 1 < Nat.size 2 := by decide

theorem witness_EncodedBodyLosesNothing : encodeBody zeroDigest = encodeBody zeroDigest := rfl

theorem witness_ResetOverwritesEverything :
    ({ busy with pending := [.reset true, .work] } : State).pending = .reset true :: [.work] := by decide

theorem witness_IdleEngineKeepsItsState : idle.status.busy = false ∧ idle.pending = [] := by decide

theorem witness_InvariantHoldsAtReset : Params.Legal ⟨1, 230⟩ ∧ Params.Legal ⟨65535, 8⟩ := by decide

/-- For InvariantKeptByEveryStep and CapacitiesNeverChange. -/
theorem witness_InvariantKeptByEveryStep :
    ({ busy with pending := [.work] } : State).Inv ∧
      after (step { busy with pending := [.work] }) (fun t => t.seq.seg == 1) := by decide

theorem witness_ControlChangesOnlyByItsWriteOrReset :
    after (step { idle with pending := [.host (access true 0x010 0x3)] }) (fun t => t.ctrl != idle.ctrl) ∧
      after (step { idle with ctrl := ⟨true, true⟩, pending := [.reset false] }) (fun t => t.ctrl != ⟨true, true⟩) := by
  decide

theorem witness_BusyIsSetOnlyByStartCommands :
    after (hostAccess ⟨.word, 0x218, 0x2⟩ idle) (fun t => t.status.busy != idle.status.busy) := by decide

/-- Two engines that differ in a password byte and look the same. -/
theorem witness_AccessesRevealNoHiddenState :
    let s := { full with pwBuf := [(0, 0x7A)] }
    s ≠ full ∧ s.hostView = full.hostView ∧ after (hostAccess ⟨.word, 0x024, 0⟩ s) (fun _ => true) ∧
      hostAccess ⟨.byte, 0x024, 0⟩ s = .refused (.narrowAccess .byte) :=
  ⟨by decide, by decide, by decide, rfl⟩

end Sys2Proof.Tests
end

section
/-! SUPPORT. What one step of the sequencer can do, said once, and what the engine agent's steps leave unchanged. -/

namespace Sys2Proof.Machine

open Sys2Proof

/-! ### The engine agent's steps leave the capacities and the enables -/

@[simp] theorem State.work_params (s : State) : s.work.params = s.params := by
  obtain ⟨core, alt, dig, seq, h⟩ := s.work_frame
  rw [h]

@[simp] theorem State.work_ctrl (s : State) : s.work.ctrl = s.ctrl := by
  obtain ⟨core, alt, dig, seq, h⟩ := s.work_frame
  rw [h]

@[simp] theorem State.complete_params (s : State) : s.complete.params = s.params := by
  obtain ⟨-, -, h⟩ | ⟨-, -, h⟩ | ⟨-, h⟩ := s.complete_cases <;> rw [h] <;> rfl

@[simp] theorem State.complete_ctrl (s : State) : s.complete.ctrl = s.ctrl := by
  obtain ⟨-, -, h⟩ | ⟨-, -, h⟩ | ⟨-, h⟩ := s.complete_cases <;> rw [h] <;> rfl

@[simp] theorem State.applyReset_params (s : State) (r : Bool) : (s.applyReset r).params = s.params := rfl

/-! ### The sequencer -/

/-- Everything one step inside a stream can do to the state. -/
inductive StreamEffect (s : State) : State → Prop where
  | absorb (x : Byte) :
      StreamEffect s { s with core := md5Absorb s.core x, seq := { s.seq with pos := s.seq.pos + 1 } }
  | nextSegment : StreamEffect s { s with seq := { s.seq with seg := s.seq.seg + 1, pos := 0 } }
  | endAlt (phase : s.seq.phase = .alt) :
      StreamEffect s
        { s with core := md5Final s.core, altReg := (md5Final s.core).digest, seq := ⟨.seed, 0, 0, 0⟩ }
  | endSeed (phase : s.seq.phase = .seed) :
      StreamEffect s
        { s with core := md5Final s.core, digReg := (md5Final s.core).digest, seq := ⟨.round, 0, 0, 0⟩ }
  | nextRound (phase : s.seq.phase = .round) (more : s.seq.ridx.toNat < 999) :
      StreamEffect s
        { s with
          core := md5Final s.core, digReg := (md5Final s.core).digest, seq := ⟨.round, s.seq.ridx + 1, 0, 0⟩ }
  | lastRound (phase : s.seq.phase = .round) :
      StreamEffect s
        { s with core := md5Final s.core, digReg := (md5Final s.core).digest, seq := ⟨.encode, s.seq.ridx, 0, 0⟩ }
  | wait : StreamEffect s s

theorem State.endStream_effect (s : State) : StreamEffect s s.endStream := by
  unfold State.endStream
  dsimp only
  split
  · exact .endAlt ‹_›
  · exact .endSeed ‹_›
  · split
    · exact .nextRound ‹_› ‹_›
    · exact .lastRound ‹_›
  all_goals exact .wait

theorem State.streamStep_effect (s : State) : StreamEffect s s.streamStep := by
  unfold State.streamStep
  split
  · split
    · exact .absorb _
    · exact .nextSegment
  · exact s.endStream_effect

/-- MD5_INIT before a stream changes the MD5 core only. -/
theorem State.initStream_eq (s : State) :
    s.initStream = { s with core := if s.seq.seg = 0 ∧ s.seq.pos = 0 then md5Init s.core else s.core } := by
  unfold State.initStream
  split <;> rfl

/-- A step of the sequencer does nothing, or it is a step inside a stream of a running operation. -/
theorem State.work_cases (s : State) :
    s.work = s ∨ s.status.busy = true ∧ StreamEffect s.initStream s.work := by
  unfold State.work
  split
  · split
    · exact .inl rfl
    · exact .inl rfl
    all_goals exact .inr ⟨‹_›, s.initStream.streamStep_effect⟩
  · exact .inl rfl

end Sys2Proof.Machine
end

section
/-! PROOF. The sequencer's steps are invisible, and completing after one leaves what completing before it leaves. -/

namespace Sys2Proof.Machine

open Sys2Proof

/-- In RAW a step of the sequencer leaves the digest registers too (43_crypt_sequencer.md R212). -/
theorem State.work_frame_of_raw {s : State} (h : s.seq.phase = .raw) :
    ∃ core seq, s.work = { s with core := core, seq := seq } := by
  obtain hw | ⟨-, he⟩ := s.work_cases
  · exact ⟨s.core, s.seq, hw⟩
  · generalize s.work = t at he ⊢
    rw [s.initStream_eq] at he
    cases he with
    | absorb x => exact ⟨_, _, rfl⟩
    | nextSegment => exact ⟨_, _, rfl⟩
    | wait => exact ⟨_, s.seq, rfl⟩
    | endAlt phase | endSeed phase | nextRound phase more | lastRound phase => simp [h] at phase

/-- What CRYPT completion leaves does not depend on the datapath registers or on the sequencer's position. -/
theorem State.complete_with_internal {s : State} (hb : s.status.busy = true) (ho : s.status.op = .crypt)
    (core : Md5Core) (alt dig : Digest) (seq : SeqPos) :
    ({ s with core := core, altReg := alt, digReg := dig, seq := seq } : State).complete = s.complete := by
  simp only [State.complete, hb, ho]
  rfl

/-- What MD5 completion leaves does not depend on the MD5 core or on the sequencer's position. -/
theorem State.complete_with_core_seq {s : State} (hb : s.status.busy = true) (ho : s.status.op = .md5)
    (core : Md5Core) (seq : SeqPos) :
    ({ s with core := core, seq := seq } : State).complete = s.complete := by
  simp only [State.complete, hb, ho]
  rfl

theorem State.work_of_idle {s : State} (hb : s.status.busy = false) : s.work = s := by
  simp [State.work, hb]

theorem State.work_hostView (s : State) : s.work.hostView = s.hostView := by
  obtain ⟨core, alt, dig, seq, hw⟩ := s.work_frame
  rw [hw]
  rfl

/-- Completing after a step of the sequencer leaves what completing before it leaves. -/
theorem State.complete_work {s : State} (h : s.SequencerSound) : s.work.complete = s.complete := by
  obtain ⟨-, hrun, -, -⟩ := h
  cases hb : s.status.busy with
  | false => rw [State.work_of_idle hb]
  | true =>
    obtain ⟨-, ⟨ho, -⟩ | ⟨ho, hphase⟩⟩ := hrun hb
    · obtain ⟨core, alt, dig, seq, hw⟩ := s.work_frame
      rw [hw, State.complete_with_internal hb ho]
    · obtain ⟨core, seq, hw⟩ := State.work_frame_of_raw hphase
      rw [hw, State.complete_with_core_seq hb ho]

/-- Settles O42: the sequencer writes internal registers only, none of which the completion reads. -/
theorem sequencerStepsAreInvisible : Obligations.SequencerStepsAreInvisible :=
  fun s => ⟨s.work_hostView, State.complete_work⟩

end Sys2Proof.Machine
end

section
/-! PROOF. Every update of the state that a step is made of keeps the invariant, and so does every step. -/

namespace Sys2Proof.Machine

open Sys2Proof

section InvariantOfUpdates

/-! ### The MD5 core between steps -/

/-- `State.CoreSettled` as a predicate of the core alone. -/
abbrev Md5Core.Settled (m : Md5Core) : Prop := m.t = 0 ∧ m.fill.toNat < 64

theorem md5Init_settled (m : Md5Core) : (md5Init m).Settled := ⟨rfl, by simp⟩

theorem md5Final_settled (m : Md5Core) : (md5Final m).Settled := ⟨md5Final_t m, by simp⟩

theorem md5Absorb_settled {m : Md5Core} (x : Byte) (h : m.Settled) : (md5Absorb m x).Settled := by
  obtain ⟨ht, hf⟩ := h
  unfold md5Absorb Md5Core.compressIfFull
  split
  · exact ⟨md5Compress_t _, by simp⟩
  · rename_i hfull
    refine ⟨ht, ?_⟩
    have hne : m.fill + 1 ≠ 64 := hfull
    show (m.fill + 1).toNat < 64
    bv_omega

/-! ### The length of the result string -/

@[simp] theorem encodeBody_length (fd : Digest) : (encodeBody fd).length = 22 := by simp [encodeBody]

/-- 44_encoder.md R247: three magic characters, the salt, the separator and 22 characters of the body. -/
theorem encodedHash_length (salt : List Byte) (fd : Digest) : (encodedHash salt fd).length = 26 + salt.length := by
  simp [encodedHash, magicRom]
  omega

@[simp] theorem State.salt_length (s : State) : s.salt.length = s.saltLen.toNat := by simp [State.salt]

/-! ### Host accesses -/

variable {s t : State}

theorem State.Inv.respond (h : s.Inv) (v : Word) : (s.respond v).Inv := h

theorem State.Inv.popEvent (h : s.Inv) (rest : List Event) : (s.popEvent rest).Inv := h

theorem State.Inv.raiseError (h : s.Inv) {code : ErrCode} (hc : code ≠ .none) (info : Word) :
    (s.raiseError code info).Inv := by
  obtain ⟨hstores, hinputs, hresults, ⟨-, herr⟩, hseq, hcore⟩ := h
  rw [State.raiseError_eq]
  refine ⟨hstores, hinputs, hresults, ⟨nofun, fun _ => ?_⟩, hseq, hcore⟩
  show (if s.status.err then s.errCode else code) ≠ .none
  split
  · exact herr ‹_›
  · exact hc

theorem State.Inv.clearDone (h : s.Inv) : s.clearDone.Inv := by
  obtain ⟨hstores, hinputs, hresults, herror, ⟨hidle, hrun, hridx, -⟩, hcore⟩ := h
  refine ⟨hstores, hinputs, hresults, herror, ⟨hidle, fun hb => ?_, hridx, fun _ => rfl⟩, hcore⟩
  obtain ⟨-, hphase⟩ := hrun hb
  exact ⟨rfl, hphase⟩

theorem State.Inv.clearError (h : s.Inv) : s.clearError.Inv := by
  obtain ⟨hstores, hinputs, hresults, -, hseq, hcore⟩ := h
  exact ⟨hstores, hinputs, hresults, ⟨fun _ => ⟨rfl, rfl, rfl⟩, nofun⟩, hseq, hcore⟩

theorem State.Inv.withCtrl (h : s.Inv) (c : Ctrl) : ({ s with ctrl := c } : State).Inv := h

/-- A store that grows by one byte stays within its length, and the length within its capacity. -/
theorem Memory.below_write_at_length {m : Memory} {len : BitVec 16} {cap : Nat} (x : Byte) (hm : m.Below len.toNat)
    (hlen : len.toNat ≤ cap) (room : len.toNat ≠ cap) (hcap : cap ≤ 65535) :
    (len + 1).toNat ≤ cap ∧ (m.write len.toNat x).Below (len + 1).toNat := by
  have hsucc : (len + 1).toNat = len.toNat + 1 := by bv_omega
  refine ⟨by omega, Memory.write_below x (fun c hc => ?_) (by omega)⟩
  have := hm c hc
  omega

theorem State.Inv.appendPw (h : s.Inv) (x : Byte) (room : s.pwLen.toNat ≠ s.params.pwMax) : (s.appendPw x).Inv := by
  obtain ⟨⟨hpwf, hswf, hrwf⟩, ⟨hlegal, hpl, hsl, hpb, hsb⟩, hresults, herror, hseq, hcore⟩ := h
  obtain ⟨-, hcap, -, -⟩ := id hlegal
  obtain ⟨hlen, hbelow⟩ := Memory.below_write_at_length x hpb hpl room hcap
  exact ⟨⟨Memory.write_wf _ x hpwf, hswf, hrwf⟩, ⟨hlegal, hlen, hsl, hbelow, hsb⟩, hresults, herror, hseq, hcore⟩

theorem State.Inv.appendSalt (h : s.Inv) (x : Byte) (room : s.saltLen.toNat ≠ s.params.saltMax) :
    (s.appendSalt x).Inv := by
  obtain ⟨⟨hpwf, hswf, hrwf⟩, ⟨hlegal, hpl, hsl, hpb, hsb⟩, hresults, herror, hseq, hcore⟩ := h
  obtain ⟨-, -, -, hcap⟩ := id hlegal
  obtain ⟨hlen, hbelow⟩ := Memory.below_write_at_length x hsb hsl room (by omega)
  exact ⟨⟨hpwf, Memory.write_wf _ x hswf, hrwf⟩, ⟨hlegal, hpl, hlen, hpb, hbelow⟩, hresults, herror, hseq, hcore⟩

/-- The start of an operation at its first phase. -/
theorem State.Inv.startOperation (h : s.Inv) {op : Op} {first : Phase}
    (hop : op = .crypt ∧ first = .alt ∨ op = .md5 ∧ first = .raw) : (s.startOperation op first).Inv := by
  obtain ⟨⟨hpwf, hswf, -⟩, hinputs, -, herror, -, hcore⟩ := h
  refine ⟨⟨hpwf, hswf, rfl⟩, hinputs, ⟨nofun, by simp, fun _ => rfl, nofun, fun _ => ⟨rfl, rfl⟩⟩, herror,
    ⟨nofun, fun _ => ⟨rfl, ?_⟩, by simp, fun _ => rfl⟩, hcore⟩
  obtain ⟨rfl, rfl⟩ | ⟨rfl, rfl⟩ := hop
  · exact .inl ⟨rfl, .head _⟩
  · exact .inr ⟨rfl, rfl⟩

/-- The reset state meets the invariant, for every legal choice of capacities. -/
theorem State.resetFor_inv {p : Params} (hp : p.Legal) : (State.resetFor p).Inv :=
  ⟨⟨rfl, rfl, rfl⟩, ⟨hp, Nat.zero_le _, Nat.zero_le _, nofun, nofun⟩,
    ⟨nofun, Nat.zero_le _, fun _ => rfl, nofun, fun _ => ⟨rfl, rfl⟩⟩, ⟨fun _ => ⟨rfl, rfl, rfl⟩, nofun⟩,
    ⟨fun _ => rfl, nofun, Nat.zero_le _, fun _ => rfl⟩, ⟨rfl, Nat.succ_pos 63⟩⟩

/-- CLEAR in an idle engine leaves the reset values but for the enables and the model's own fields. -/
theorem State.clearAll_eq (idle : s.status.busy = false) :
    s.clearAll = { State.resetFor s.params with
      ctrl := s.ctrl, rdata := s.rdata, pending := s.pending, freeCount := s.freeCount } := by
  simp [State.clearAll, State.resetFor, idle]

theorem State.Inv.legal (h : s.Inv) : s.params.Legal := by
  obtain ⟨-, ⟨hlegal, -⟩, -⟩ := h
  exact hlegal

theorem State.Inv.clearAll (h : s.Inv) (idle : s.status.busy = false) : s.clearAll.Inv := by
  rw [State.clearAll_eq idle]
  exact State.resetFor_inv h.legal

theorem State.Inv.applyReset (h : s.Inv) (r : Bool) : (s.applyReset r).Inv :=
  State.resetFor_inv h.legal

theorem AccessEffect.inv (he : AccessEffect s t) (h : s.Inv) : t.Inv := by
  cases he with
  | respond v => exact h.respond v
  | nothing => exact h
  | raise code info hc => exact h.raiseError hc info
  | clearDone => exact h.clearDone
  | clearError => exact h.clearError
  | clearBoth => exact h.clearDone.clearError
  | enables c => exact h.withCtrl c
  | pushPw x idle room => exact h.appendPw x room
  | pushSalt x idle room => exact h.appendSalt x room
  | startCrypt idle => exact h.startOperation (.inl ⟨rfl, rfl⟩)
  | startMd5 idle => exact h.startOperation (.inr ⟨rfl, rfl⟩)
  | clearAll idle => exact h.clearAll idle

/-! ### The engine agent -/

/-- The invariant speaks of the internal registers only in the sequencer's position and the settled core. -/
theorem State.Inv.withInternal (h : s.Inv) {core : Md5Core} (alt dig : Digest) {seq : SeqPos}
    (hcore : core.Settled)
    (hseq : ({ s with seq := seq } : State).SequencerSound) :
    ({ s with core := core, altReg := alt, digReg := dig, seq := seq } : State).Inv := by
  obtain ⟨hstores, hinputs, hresults, herror, -, -⟩ := h
  exact ⟨hstores, hinputs, hresults, herror, hseq, hcore⟩

theorem State.Inv.coreSettled (h : s.Inv) : s.core.Settled := by
  obtain ⟨-, -, -, -, -, hcore⟩ := h
  exact hcore

theorem State.Inv.sequencerSound (h : s.Inv) : s.SequencerSound := by
  obtain ⟨-, -, -, -, hseq, -⟩ := h
  exact hseq

theorem State.Inv.initStream (h : s.Inv) : s.initStream.Inv := by
  rw [s.initStream_eq]
  refine h.withInternal s.altReg s.digReg ?_ h.sequencerSound
  split
  · exact md5Init_settled _
  · exact h.coreSettled

/-- While an operation runs, a move of the sequencer inside its phase keeps its position sound. -/
theorem State.SequencerSound.samePhase (h : s.SequencerSound) (hb : s.status.busy = true) (seg : Nat)
    (pos : BitVec 16) : ({ s with seq := { s.seq with seg := seg, pos := pos } } : State).SequencerSound := by
  obtain ⟨-, hrun, hridx, hdone⟩ := h
  exact ⟨fun hb' => absurd (hb.symm.trans hb') nofun, hrun, hridx, hdone⟩

/-- While CRYPT runs, so does a move to any of its phases. -/
theorem State.SequencerSound.cryptPhase (h : s.SequencerSound) (hb : s.status.busy = true)
    (hnow : s.seq.phase ≠ .raw) {seq : SeqPos} (hnext : seq.phase ∈ [.alt, .seed, .round, .encode])
    (hridx : seq.ridx.toNat ≤ 999) : ({ s with seq := seq } : State).SequencerSound := by
  obtain ⟨-, hrun, -, hdone⟩ := h
  obtain ⟨hd, ⟨ho, -⟩ | ⟨-, hraw⟩⟩ := hrun hb
  · exact ⟨fun hb' => absurd (hb.symm.trans hb') nofun, fun _ => ⟨hd, .inl ⟨ho, hnext⟩⟩, hridx, hdone⟩
  · exact absurd hraw hnow

theorem StreamEffect.inv (he : StreamEffect s t) (hb : s.status.busy = true) (h : s.Inv) : t.Inv := by
  have hseq := h.sequencerSound
  have hfinal := md5Final_settled s.core
  cases he with
  | absorb x => exact h.withInternal _ _ (md5Absorb_settled x h.coreSettled) (hseq.samePhase hb _ _)
  | nextSegment => exact h.withInternal _ _ h.coreSettled (hseq.samePhase hb _ _)
  | endAlt phase => exact h.withInternal _ _ hfinal (hseq.cryptPhase hb (by simp [phase]) (by simp) (by simp))
  | endSeed phase => exact h.withInternal _ _ hfinal (hseq.cryptPhase hb (by simp [phase]) (by simp) (by simp))
  | nextRound phase more =>
    have hridx : (s.seq.ridx + 1).toNat ≤ 999 := by bv_omega
    exact h.withInternal _ _ hfinal (hseq.cryptPhase hb (by simp [phase]) (by simp) hridx)
  | lastRound phase =>
    obtain ⟨-, -, hridx, -⟩ := id hseq
    exact h.withInternal _ _ hfinal (hseq.cryptPhase hb (by simp [phase]) (by simp) hridx)
  | wait => exact h

theorem State.Inv.work (h : s.Inv) : s.work.Inv := by
  obtain hw | ⟨hb, he⟩ := s.work_cases
  · rwa [hw]
  · refine he.inv ?_ h.initStream
    rwa [s.initStream_eq]

/-- The sequencer's position after a completion. -/
theorem State.sequencerSound_finish (hop : s.status.op ≠ .none) : s.finish.SequencerSound :=
  ⟨fun _ => rfl, nofun, Nat.zero_le _, fun ho => absurd ho hop⟩

theorem State.completeCrypt_resultLen (h : s.saltLen.toNat ≤ 230) :
    s.completeCrypt.resultLen.toNat = 26 + s.saltLen.toNat := by
  show (BitVec.ofNat 16 (encodedHash _ _).length).toNat = _
  rw [encodedHash_length, s.salt_length, BitVec.toNat_ofNat]
  omega

theorem assemble_below (bs : List Byte) : (assemble bs).Below bs.length := fun c hc =>
  (Memory.ofBytes_below _ c hc).trans_le (bs.length_take_le' 256)

theorem State.Inv.completeCrypt (h : s.Inv) (ho : s.status.op = .crypt) : s.completeCrypt.Inv := by
  obtain ⟨⟨hpwf, hswf, -⟩, hinputs, -, herror, -, -⟩ := h
  have hsalt : s.saltLen.toNat ≤ 230 := by
    obtain ⟨⟨-, -, -, hmax⟩, -, hsl, -⟩ := hinputs
    exact hsl.trans hmax
  have hlen := State.completeCrypt_resultLen hsalt
  have hbelow : s.completeCrypt.resultBuf.Below s.completeCrypt.resultLen.toNat := by
    rw [hlen, ← s.salt_length, ← encodedHash_length]
    exact assemble_below _
  refine ⟨⟨hpwf, hswf, Memory.ofBytes_wf _⟩, hinputs, ⟨hbelow, by omega, fun hno => absurd ho hno,
    fun _ _ => by omega, ?_⟩, herror, State.sequencerSound_finish (by simp [ho]), md5Final_settled _⟩
  rintro (hb | hno)
  · exact nomatch hb
  · exact absurd (ho.symm.trans hno) nofun

theorem State.Inv.completeMd5 (h : s.Inv) (ho : s.status.op = .md5) : s.completeMd5.Inv := by
  obtain ⟨hstores, hinputs, ⟨hbelow, hmax, hempty, -, -⟩, herror, -, -⟩ := h
  refine ⟨hstores, hinputs, ⟨hbelow, hmax, hempty, fun hc _ => absurd (ho.symm.trans hc) nofun, ?_⟩, herror,
    State.sequencerSound_finish (by simp [ho]), md5Final_settled _⟩
  rintro (hb | hno)
  · exact nomatch hb
  · exact absurd (ho.symm.trans hno) nofun

theorem State.Inv.complete (h : s.Inv) : s.complete.Inv := by
  obtain ⟨-, ho, hc⟩ | ⟨-, ho, hc⟩ | ⟨-, hc⟩ := s.complete_cases
  · rw [hc]
    exact h.completeCrypt ho
  · rw [hc]
    exact h.completeMd5 ho
  · rwa [hc]

end InvariantOfUpdates

/-- Settles O56: a step is an effect of a host access, a step of the engine agent or a reset, and each keeps the
invariant. -/
theorem invariantKeptByEveryStep : Obligations.InvariantKeptByEveryStep := by
  intro s t h hstep
  obtain ⟨-, rfl⟩ | ⟨e, rest, -, ⟨tr, -, -, he⟩ | ⟨-, rfl⟩ | ⟨-, rfl⟩ | ⟨r, -, rfl⟩⟩ := step_cases hstep
  · exact h.complete
  · exact he.inv (h.popEvent rest)
  · exact (h.popEvent rest).work
  · exact (h.popEvent rest).complete
  · exact (h.popEvent rest).applyReset r

end Sys2Proof.Machine
end

section
/-! PROOF. What `step` does at each event, and what no step changes or only one kind of event: the capacities and the
enables. -/

namespace Sys2Proof.Machine

open Sys2Proof

/-- Settles O6: each clause is the branch of `step` and of `runEvent` for its event. -/
theorem stepTakesTheNextEvent : Obligations.StepTakesTheNextEvent := by
  intro s rest
  refine ⟨fun h => ?_, fun size d v hsize h => ?_, fun h => ?_, fun h => ?_, fun r h => ?_⟩
  · simp only [step, h]
  · cases size with
    | word => exact absurd rfl hsize
    | byte | half => simp only [step, h, runEvent, hostAccess]
  all_goals simp only [step, h, runEvent, State.popEvent]

/-! ### The capacities -/

theorem AccessEffect.params_eq {s t : State} (he : AccessEffect s t) : t.params = s.params := by
  cases he with
  | raise code info hc => exact s.raiseError_params code info
  | _ => rfl

/-- Settles O57: neither an effect of an access nor a step of the engine agent nor a reset writes the capacities. -/
theorem capacitiesNeverChange : Obligations.CapacitiesNeverChange := by
  intro s t hstep
  obtain ⟨-, rfl⟩ | ⟨e, rest, -, ⟨tr, -, -, he⟩ | ⟨-, rfl⟩ | ⟨-, rfl⟩ | ⟨r, -, rfl⟩⟩ := step_cases hstep
  · exact s.complete_params
  · exact he.params_eq
  · exact (s.popEvent rest).work_params
  · exact (s.popEvent rest).complete_params
  · exact (s.popEvent rest).applyReset_params r

/-! ### Transfers and the rows they match -/

/-- A 32-bit transfer is the access its write flag and its offset name (30_encoding.md R81). -/
theorem Transfer.eq_access {tr : Transfer} (h : tr.size = .word) :
    tr = access (isWrite tr.desc) (tr.desc.setWidth 9) tr.wdata := by
  obtain ⟨size, d, v⟩ := tr
  obtain rfl : size = .word := h
  have hd : d = BitVec.ofBool (isWrite d) ++ d.setWidth 9 := by
    apply BitVec.eq_of_getLsbD_eq
    intro i hi
    rw [BitVec.getLsbD_append]
    split
    · simp [*]
    · obtain rfl : i = 9 := by omega
      simp [isWrite]
  exact congrArg (fun d => Transfer.mk .word d v) hd

/-- A row of the table that a descriptor decodes to selects it (30_encoding.md R85, R86). -/
theorem exists_row_of_decodeBus {d : BitVec 10} {v : Word} {i : Instr} (h : decodeBus d v = .row i) :
    ∃ r ∈ busTable, r.selects d = true ∧ r.build d v = i := by
  unfold decodeBus at h
  split at h
  · rename_i r hr
    have hsel : r.selects d = true := List.find?_some (p := fun r : BusRow => r.selects d) hr
    exact ⟨r, List.mem_of_find?_eq_some hr, hsel, BusDecoded.row.inj h⟩
  · cases h

/-- The write flag of a descriptor that a row with W = 1 selects. -/
theorem isWrite_of_masked {d : BitVec 10} {pat : BitVec 10} (h : d &&& 0x3FC = pat) (hw : isWrite pat = true) :
    isWrite d = true := by
  subst h
  simpa [isWrite] using hw

/-- The mask of the rows for one word drops OFF[1:0]. -/
theorem and_wordMask (d : BitVec 10) : d &&& (0x3FC : BitVec 10) = d >>> 2 <<< 2 := by
  apply BitVec.eq_of_getLsbD_eq
  intro i hi
  interval_cases i <;> simp

/-- The word offset of a descriptor that a row for one word selects. -/
theorem wordOf_of_masked {d pat : BitVec 10} (h : d &&& 0x3FC = pat) :
    wordOf (d.setWidth 9) = pat.toNat % 512 := by
  rw [← h, and_wordMask]
  simp only [wordOf, BitVec.toNat_setWidth, BitVec.toNat_shiftLeft, BitVec.toNat_ushiftRight, Nat.shiftLeft_eq,
    Nat.shiftRight_eq_div_pow]
  omega

/-- The descriptors of WR_CTRL. -/
theorem masked_of_decodeBus_wrCtrl {d : BitVec 10} {v w : Word} (h : decodeBus d v = .row (.wrCtrl w)) :
    d &&& 0x3FC = 0x210 := by
  obtain ⟨r, hr, hsel, hbuild⟩ := exists_row_of_decodeBus h
  have hrows : ∀ r ∈ busTable, r.build d v = .wrCtrl w → r.pat = 0x210 ∧ r.mask = 0x3FC := by simp [busTable]
  obtain ⟨hpat, hmask⟩ := hrows r hr hbuild
  simpa [BusRow.selects, hpat, hmask] using hsel

/-! ### The enables -/

theorem State.ite_ctrl {c : Prop} [Decidable c] {a b : State} {x : Ctrl} (ha : a.ctrl = x) (hb : b.ctrl = x) :
    (if c then a else b).ctrl = x := by
  split
  · exact ha
  · exact hb

theorem State.unlessBusy_ctrl {s idle : State} (c : Word) (h : idle.ctrl = s.ctrl) :
    (s.unlessBusy c idle).ctrl = s.ctrl :=
  State.ite_ctrl (s.raiseError_ctrl _ _) h

theorem execWrStatus_ctrl {v : Word} {s t : State} (h : execWrStatus v s = .next t) : t.ctrl = s.ctrl := by
  obtain rfl := Host.Outcome.next.inj h
  cases clearsDone v <;> cases clearsErr v <;> rfl

theorem execWrPwPush_ctrl {v : Word} {s t : State} (h : execWrPwPush v s = .next t) : t.ctrl = s.ctrl := by
  obtain rfl := Host.Outcome.next.inj h
  exact State.ite_ctrl (s.raiseError_ctrl _ _) (State.ite_ctrl (s.raiseError_ctrl _ _) rfl)

theorem execWrSaltPush_ctrl {v : Word} {s t : State} (h : execWrSaltPush v s = .next t) : t.ctrl = s.ctrl := by
  obtain rfl := Host.Outcome.next.inj h
  exact State.ite_ctrl (s.raiseError_ctrl _ _) (State.ite_ctrl (s.raiseError_ctrl _ _) rfl)

theorem execCrypt_ctrl {s t : State} (h : execCrypt s = .next t) : t.ctrl = s.ctrl := by
  obtain rfl := Host.Outcome.next.inj h
  exact State.unlessBusy_ctrl _ rfl

theorem execMd5_ctrl {s t : State} (h : execMd5 s = .next t) : t.ctrl = s.ctrl := by
  obtain rfl := Host.Outcome.next.inj h
  exact State.unlessBusy_ctrl _ rfl

theorem execClear_ctrl {s t : State} (h : execClear s = .next t) : t.ctrl = s.ctrl := by
  obtain rfl := Host.Outcome.next.inj h
  exact State.unlessBusy_ctrl _ rfl

theorem execWrCmd_ctrl {c : Word} {s t : State} (h : execWrCmd c s = .next t) : t.ctrl = s.ctrl := by
  unfold execWrCmd at h
  split at h
  · obtain rfl := Host.Outcome.next.inj h
    exact s.raiseError_ctrl _ _
  · split at h
    · obtain rfl := Host.Outcome.next.inj h
      rfl
    · exact execCrypt_ctrl h
    · exact execMd5_ctrl h
    · exact execClear_ctrl h

/-- WR_CTRL is the only instruction that writes the enables. -/
theorem exec_ctrl {i : Instr} {s t : State} (h : exec i s = .next t) (hi : ∀ v, i ≠ .wrCtrl v) : t.ctrl = s.ctrl := by
  cases i with
  | wrCtrl v => exact absurd rfl (hi v)
  | wrStatus v => exact execWrStatus_ctrl h
  | wrCmd c => exact execWrCmd_ctrl h
  | wrPwPush v => exact execWrPwPush_ctrl h
  | wrSaltPush v => exact execWrSaltPush_ctrl h
  | crypt => exact execCrypt_ctrl h
  | md5 => exact execMd5_ctrl h
  | clear => exact execClear_ctrl h
  | _ => cases h; rfl

theorem execDefault_ctrl {a : DefaultAccess} {s t : State} (h : execDefault a s = .next t) : t.ctrl = s.ctrl := by
  cases a <;> cases h <;> rfl

/-- An access that changes the enables is a 32-bit access that decodes to WR_CTRL. -/
theorem decodeBus_of_hostAccess_ctrl_ne {tr : Transfer} {s t : State} (h : hostAccess tr s = .next t)
    (hne : t.ctrl ≠ s.ctrl) : tr.size = .word ∧ ∃ v, decodeBus tr.desc tr.wdata = .row (.wrCtrl v) := by
  unfold hostAccess at h
  split at h
  · refine ⟨‹_›, ?_⟩
    unfold execBus at h
    split at h
    · rename_i i hdec
      by_contra hno
      exact hne (exec_ctrl h fun v hv => hno ⟨v, hv ▸ hdec⟩)
    · exact absurd (execDefault_ctrl h) hne
  · cases h
  · cases h

/-- Settles O58: of the accesses only WR_CTRL writes the enables, and its descriptors address 0x010. -/
theorem controlChangesOnlyByItsWriteOrReset : Obligations.ControlChangesOnlyByItsWriteOrReset := by
  intro s t e rest hpending hstep hne
  have hrun : runEvent e (s.popEvent rest) = .next t := by simpa only [step, hpending] using hstep
  cases e with
  | host tr =>
    obtain ⟨hsize, v, hdec⟩ := decodeBus_of_hostAccess_ctrl_ne hrun hne
    have hmasked := masked_of_decodeBus_wrCtrl hdec
    have hwrite : isWrite tr.desc = true := isWrite_of_masked hmasked rfl
    refine .inl ⟨tr.desc.setWidth 9, tr.wdata, wordOf_of_masked hmasked, ?_⟩
    rw [← hwrite, ← Transfer.eq_access hsize]
  | work =>
    obtain rfl := Host.Outcome.next.inj hrun
    exact absurd (s.popEvent rest).work_ctrl hne
  | complete =>
    obtain rfl := Host.Outcome.next.inj hrun
    exact absurd (s.popEvent rest).complete_ctrl hne
  | reset r => exact .inr ⟨r, rfl⟩

end Sys2Proof.Machine
end

section
/-! PROOF. No access tells the host a byte of the inputs or of the internal registers. -/

namespace Sys2Proof.Machine

open Sys2Proof

/-- What the host can observe of an outcome. -/
def outView : Out → Out
  | .next s => .next s.hostView
  | .fault r => .fault r
  | .refused r => .refused r

theorem outView_eq_next_iff {o : Out} {v : State} : outView o = .next v ↔ ∃ t, o = .next t ∧ t.hostView = v := by
  cases o <;> simp [outView]

theorem outView_eq_refused_iff {o : Out} {r : Refusal} : outView o = .refused r ↔ o = .refused r := by
  cases o <;> simp [outView]

theorem State.raiseError_hostView (s : State) (code : ErrCode) (info : Word) :
    (s.hostView.raiseError code info).hostView = (s.raiseError code info).hostView := by
  rw [State.raiseError_eq, State.raiseError_eq]
  rfl

/-- A test that both states answer alike keeps their views equal. -/
theorem State.ite_hostView {c : Prop} [Decidable c] {a b a' b' : State} (ha : a'.hostView = a.hostView)
    (hb : b'.hostView = b.hostView) : (if c then a' else b').hostView = (if c then a else b).hostView := by
  split
  · exact ha
  · exact hb

theorem State.unlessBusy_hostView (s : State) (c : Word) {idle idle' : State} (h : idle'.hostView = idle.hostView) :
    (s.hostView.unlessBusy c idle').hostView = (s.unlessBusy c idle).hostView :=
  State.ite_hostView (s.raiseError_hostView _ _) h

theorem execWrStatus_outView (v : Word) (s : State) :
    outView (execWrStatus v s.hostView) = outView (execWrStatus v s) := by
  unfold execWrStatus
  cases clearsDone v <;> cases clearsErr v <;> rfl

theorem execWrPwPush_outView (v : Word) (s : State) :
    outView (execWrPwPush v s.hostView) = outView (execWrPwPush v s) :=
  congrArg Host.Outcome.next
    (State.ite_hostView (s.raiseError_hostView _ _) (State.ite_hostView (s.raiseError_hostView _ _) rfl))

theorem execWrSaltPush_outView (v : Word) (s : State) :
    outView (execWrSaltPush v s.hostView) = outView (execWrSaltPush v s) :=
  congrArg Host.Outcome.next
    (State.ite_hostView (s.raiseError_hostView _ _) (State.ite_hostView (s.raiseError_hostView _ _) rfl))

theorem execCrypt_outView (s : State) : outView (execCrypt s.hostView) = outView (execCrypt s) :=
  congrArg Host.Outcome.next (s.unlessBusy_hostView _ rfl)

theorem execMd5_outView (s : State) : outView (execMd5 s.hostView) = outView (execMd5 s) :=
  congrArg Host.Outcome.next (s.unlessBusy_hostView _ rfl)

theorem execClear_outView (s : State) : outView (execClear s.hostView) = outView (execClear s) :=
  congrArg Host.Outcome.next (s.unlessBusy_hostView _ rfl)

theorem execWrCmd_outView (c : Word) (s : State) : outView (execWrCmd c s.hostView) = outView (execWrCmd c s) := by
  unfold execWrCmd
  split
  · exact congrArg Host.Outcome.next (s.raiseError_hostView _ _)
  · split
    · rfl
    · exact execCrypt_outView s
    · exact execMd5_outView s
    · exact execClear_outView s

/-- What the host observes of an instruction depends only on what it can observe of the state. -/
theorem exec_outView (i : Instr) (s : State) : outView (exec i s.hostView) = outView (exec i s) := by
  cases i with
  | wrStatus v => exact execWrStatus_outView v s
  | wrCmd c => exact execWrCmd_outView c s
  | wrPwPush v => exact execWrPwPush_outView v s
  | wrSaltPush v => exact execWrSaltPush_outView v s
  | crypt => exact execCrypt_outView s
  | md5 => exact execMd5_outView s
  | clear => exact execClear_outView s
  | _ => rfl

theorem execDefault_outView (a : DefaultAccess) (s : State) :
    outView (execDefault a s.hostView) = outView (execDefault a s) := by
  cases a <;> rfl

/-- The same of an access of any size. -/
theorem hostAccess_outView (tr : Transfer) (s : State) :
    outView (hostAccess tr s.hostView) = outView (hostAccess tr s) := by
  unfold hostAccess
  split
  · unfold execBus
    split
    · exact exec_outView _ s
    · exact execDefault_outView _ s
  · rfl
  · rfl

/-- Settles O60: both outcomes look like the outcome at the common view. -/
theorem accessesRevealNoHiddenState : Obligations.AccessesRevealNoHiddenState := by
  intro tr s u hview
  have hout : outView (hostAccess tr s) = outView (hostAccess tr u) := by
    rw [← hostAccess_outView tr s, hview, hostAccess_outView]
  refine ⟨fun t ht => ?_, fun r hr => ?_⟩
  · obtain ⟨w, hw, hwt⟩ := outView_eq_next_iff.1 (hout.symm.trans (outView_eq_next_iff.2 ⟨t, ht, rfl⟩))
    exact ⟨w, hw, hwt.symm⟩
  · exact outView_eq_refused_iff.1 (hout.symm.trans (outView_eq_refused_iff.2 hr))

end Sys2Proof.Machine
end

section
/-! PROOF. The bus address selects the window offset, and OFF[1:0] select nothing (20_memory.md R60, R63). -/

namespace Sys2Proof.Machine

open Sys2Proof

/-! ### The two low bits of an offset -/

/-- A field of a descriptor above OFF[1:0] is the same when these are cleared. -/
theorem extractLsb'_two_and_wordMask (d : BitVec 10) {n : Nat} (hn : n ≤ 8) :
    (d &&& 0x3FC).extractLsb' 2 n = d.extractLsb' 2 n := by
  rw [and_wordMask]
  apply BitVec.eq_of_getLsbD_eq
  intro i hi
  have hlt : 2 + i < 10 := by omega
  have hge : ¬2 + i ≤ 1 := by omega
  simp [hlt, hge]

theorem digestIndex_and_wordMask (d : BitVec 10) : digestIndex (d &&& 0x3FC) = digestIndex d :=
  congrArg BitVec.toNat (extractLsb'_two_and_wordMask d (by decide))

theorem resultIndex_and_wordMask (d : BitVec 10) : resultIndex (d &&& 0x3FC) = resultIndex d :=
  congrArg BitVec.toNat (extractLsb'_two_and_wordMask d (by decide))

theorem wordOffset_and_wordMask (d : BitVec 10) : wordOffset (d &&& 0x3FC) = wordOffset d :=
  congrArg (fun w => BitVec.toNat w * 4) (extractLsb'_two_and_wordMask d (by decide))

theorem isWrite_and_wordMask (d : BitVec 10) : isWrite (d &&& 0x3FC) = isWrite d := by simp [isWrite]

theorem defaultOf_and_wordMask (d : BitVec 10) : defaultOf (d &&& 0x3FC) = defaultOf d := by
  rw [defaultOf, isWrite_and_wordMask, wordOffset_and_wordMask, defaultOf]

/-- No row of the table looks at OFF[1:0] to be selected. -/
theorem selects_and_wordMask {r : BusRow} (hr : r ∈ busTable) (d : BitVec 10) :
    r.selects (d &&& 0x3FC) = r.selects d := by
  have hmasks : ∀ r ∈ busTable, 0x3FC &&& r.mask = r.mask := by simp [busTable]
  rw [BusRow.selects, BusRow.selects, BitVec.and_assoc, hmasks r hr]

/-- A row takes nothing from the descriptor but the two indexes. -/
theorem build_congr {d d' : BitVec 10} (hdigest : digestIndex d' = digestIndex d)
    (hresult : resultIndex d' = resultIndex d) (v : Word) : ∀ r ∈ busTable, r.build d' v = r.build d v := by
  simp [busTable, hdigest, hresult]

/-- The decoder ignores OFF[1:0] (30_encoding.md R81). -/
theorem decodeBus_and_wordMask (d : BitVec 10) (v : Word) : decodeBus (d &&& 0x3FC) v = decodeBus d v := by
  have hfind : busTable.find? (·.selects (d &&& 0x3FC)) = busTable.find? (·.selects d) :=
    List.find?_congr fun r hr => selects_and_wordMask hr d
  unfold decodeBus
  rw [hfind]
  cases hrow : busTable.find? (·.selects d) with
  | none => exact congrArg BusDecoded.unlisted (defaultOf_and_wordMask d)
  | some r =>
    have hr := List.mem_of_find?_eq_some hrow
    exact congrArg BusDecoded.row (build_congr (digestIndex_and_wordMask d) (resultIndex_and_wordMask d) v r hr)

/-- Settles O7: both descriptors decode alike, and every 32-bit access completes. -/
theorem lowOffsetBitsAreIgnored : Obligations.LowOffsetBitsAreIgnored := by
  intro d v s
  obtain ⟨t, ht, -⟩ := hostAccess_effect (t := ⟨.word, d, v⟩) rfl s
  refine ⟨t, ht, ?_⟩
  rw [← ht]
  exact congrArg (execBus · s) (decodeBus_and_wordMask d v)

/-! ### Bus addresses -/

theorem windowOffset_base_add {off : Nat} (h : off < 512) :
    windowOffset (Config.base + off) = some (BitVec.ofNat 9 off) := by
  rw [windowOffset, if_pos ⟨by omega, by omega⟩, Nat.add_sub_cancel_left]

theorem windowOffset_outside {addr : Nat} (h : addr < Config.base ∨ Config.base + 512 ≤ addr) :
    windowOffset addr = none :=
  if_neg (by omega)

/-- The descriptor of an offset as a number: the write flag is bit 9 (30_encoding.md R81). -/
theorem descriptor_eq_ofNat (w : Bool) {off : Nat} (h : off < 512) :
    BitVec.ofBool w ++ BitVec.ofNat 9 off = BitVec.ofNat 10 ((if w then 512 else 0) + off) := by
  have hoff : off % 512 = off := Nat.mod_eq_of_lt h
  apply BitVec.eq_of_toNat_eq
  rw [BitVec.toNat_append, BitVec.toNat_ofNat, BitVec.toNat_ofNat, hoff, ← Nat.shiftLeft_add_eq_or_of_lt h]
  cases w <;> simp <;> omega

/-- Settles O8: the platform's decoder answers addr - BASE inside the window and nothing outside. -/
theorem busAddressesSelectTheWindow : Obligations.BusAddressesSelectTheWindow := by
  intro addr size write?
  refine ⟨fun off hoff haddr => ?_, fun houtside => ?_⟩
  · rw [busTransfer, haddr, windowOffset_base_add hoff, Option.map_some, descriptor_eq_ofNat _ hoff]
  · rw [busTransfer, windowOffset_outside houtside, Option.map_none]

end Sys2Proof.Machine
end

section
/-! PROOF. A read returns its data and does nothing else, so it may be repeated (20_memory.md R68). -/

namespace Sys2Proof.Machine

open Sys2Proof

/-- The rows of the table with W = 0: the reads. -/
def isRead : Instr → Bool
  | .rdId | .rdVersion | .rdConfig | .rdStatus | .rdCtrl | .rdErrCode | .rdErrInfo => true
  | .rdPwLen | .rdSaltLen | .rdResultLen | .rdDigest _ | .rdResult _ => true
  | _ => false

/-- An access that answers data of the state before it, which is never the data of an earlier read. -/
def ReadsOnly (access : State → Out) : Prop :=
  ∀ s, ∃ x, access s = .next (s.respond x) ∧ ∀ y, access (s.respond y) = .next (s.respond x)

theorem exec_readsOnly {i : Instr} (h : isRead i = true) : ReadsOnly (exec i) := by
  intro s
  cases i with
  | wrStatus | wrCtrl | wrCmd | wrPwPush | wrSaltPush | nop | crypt | md5 | clear => cases h
  | _ => exact ⟨_, rfl, fun _ => rfl⟩

/-- A descriptor with W = 0 that matches no row reads 0. -/
theorem execDefault_readsOnly {d : BitVec 10} (h : isWrite d = false) : ReadsOnly (execDefault (defaultOf d)) := by
  have hread : defaultOf d = .readWriteOnly ∨ defaultOf d = .readReserved := by
    rw [defaultOf, if_neg (by simp [h])]
    exact ite_eq_or_eq ..
  obtain hd | hd := hread <;> rw [hd] <;> exact fun s => ⟨0, rfl, fun _ => rfl⟩

/-- Every row selects on the write flag. -/
theorem isWrite_pat_of_selects {r : BusRow} (hr : r ∈ busTable) {d : BitVec 10} (h : r.selects d = true) :
    isWrite r.pat = isWrite d := by
  have hmasks : ∀ r ∈ busTable, isWrite r.mask = true := by simp [busTable, isWrite]
  have hmask : r.mask.getLsbD 9 = true := hmasks r hr
  rw [← eq_of_beq h, isWrite, BitVec.getLsbD_and, hmask, Bool.and_true, isWrite]

/-- A row with W = 0 is a read and takes no write data. -/
theorem build_read (d : BitVec 10) : ∀ r ∈ busTable, isWrite r.pat = false →
    isRead (r.build d 0) = true ∧ ∀ v, r.build d v = r.build d 0 := by
  simp [busTable, isWrite, isRead]

/-- A descriptor with W = 0 decodes to a read, whatever the write data. -/
theorem execBus_decodeBus_readsOnly {d : BitVec 10} (h : isWrite d = false) :
    ReadsOnly (execBus (decodeBus d 0)) ∧ ∀ v, decodeBus d v = decodeBus d 0 := by
  unfold decodeBus
  cases hrow : busTable.find? (·.selects d) with
  | none => exact ⟨execDefault_readsOnly h, fun _ => rfl⟩
  | some r =>
    have hr := List.mem_of_find?_eq_some hrow
    have hsel : r.selects d = true := List.find?_some (p := fun r : BusRow => r.selects d) hrow
    have hpat : isWrite r.pat = false := (isWrite_pat_of_selects hr hsel).trans h
    obtain ⟨hread, hdata⟩ := build_read d r hr hpat
    exact ⟨exec_readsOnly hread, fun v => congrArg BusDecoded.row (hdata v)⟩

/-- Bit 9 of a descriptor is the write flag (30_encoding.md R81). -/
theorem isWrite_descriptor (w : Bool) (off : BitVec 9) : isWrite (BitVec.ofBool w ++ off) = w := by
  rw [isWrite, BitVec.getLsbD_append, if_neg (by decide), BitVec.getLsbD_ofBool]
  simp

/-- Settles O17: the descriptor of a read decodes to a row or a default that only reads. -/
theorem readsHaveNoSideEffect : Obligations.ReadsHaveNoSideEffect := by
  intro off v s
  obtain ⟨hreads, hdata⟩ := execBus_decodeBus_readsOnly (isWrite_descriptor false off)
  obtain ⟨x, hfirst, hagain⟩ := hreads s
  have hexec : ∀ v t, hostAccess (access false off v) t = execBus (decodeBus (BitVec.ofBool false ++ off) 0) t :=
    fun v t => congrArg (execBus · t) (hdata v)
  exact ⟨x, (hexec v s).trans hfirst, fun v' y => (hexec v' _).trans (hagain y)⟩

end Sys2Proof.Machine
end

section
/-! PROOF. The decoder and the encoder (30_encoding.md R80 to R87): a descriptor is matched by at most one row, every
encoded instruction decodes to itself, and the access that carries it runs it. -/

namespace Sys2Proof.Machine

open Sys2Proof

/-! ### Rows of the BUS table -/

/-- What two rows that select the same descriptor have in common: their patterns agree on the bits both look at. -/
theorem pat_and_mask_of_selects {r r' : BusRow} {d : BitVec 10} (h : r.selects d = true) (h' : r'.selects d = true) :
    r.pat &&& r'.mask = r'.pat &&& r.mask := by
  rw [← eq_of_beq h, ← eq_of_beq h', BitVec.and_assoc, BitVec.and_assoc, BitVec.and_comm r.mask]

/-- Two rows of the table disagree on a bit both look at. -/
theorem busTable_pairwise : busTable.Pairwise (fun r r' => r.pat &&& r'.mask ≠ r'.pat &&& r.mask) := by
  decide

/-- Settles O2: two rows that selected one descriptor would agree on the bits both look at. -/
theorem descriptorMatchesAtMostOneRow : Obligations.DescriptorMatchesAtMostOneRow := by
  intro d
  have hpairwise := busTable_pairwise.filter (·.selects d)
  have hselects : ∀ r ∈ busTable.filter (·.selects d), r.selects d = true := fun r hr => (List.mem_filter.1 hr).2
  generalize busTable.filter (·.selects d) = rows at *
  match rows with
  | [] => exact Nat.zero_le 1
  | [_] => exact Nat.le_refl 1
  | r :: r' :: _ =>
    have hsame := pat_and_mask_of_selects (hselects r (by simp)) (hselects r' (by simp))
    exact absurd hsame (List.rel_of_pairwise_cons hpairwise (by simp))

/-- The row that selects a descriptor is the one it decodes to. -/
theorem decodeBus_of_selects {r : BusRow} (hr : r ∈ busTable) {d : BitVec 10} (h : r.selects d = true) (v : Word) :
    decodeBus d v = .row (r.build d v) := by
  have hmem : r ∈ busTable.filter (·.selects d) := List.mem_filter.2 ⟨hr, h⟩
  obtain ⟨r', hrows⟩ := List.length_eq_one_iff.1
    (Nat.le_antisymm (descriptorMatchesAtMostOneRow d) (List.length_pos_of_mem hmem))
  obtain rfl : r = r' := by simpa [hrows] using hmem
  rw [decodeBus, ← List.head?_filter, hrows]
  rfl

theorem decode_bus_eq_some_iff {d : BitVec 10} {v : Word} {i : Instr} :
    decode (.bus d v) = some i ↔ decodeBus d v = .row i := by
  rw [decode]
  cases decodeBus d v <;> simp [BusDecoded.row?]

theorem decode_of_selects {r : BusRow} (hr : r ∈ busTable) {d : BitVec 10} (h : r.selects d = true) {v : Word}
    {i : Instr} (hbuild : r.build d v = i) : decode (.bus d v) = some i :=
  decode_bus_eq_some_iff.2 ((decodeBus_of_selects hr h v).trans (congrArg BusDecoded.row hbuild))

/-! ### The round trip -/

theorem digestIndex_ofNat {k : Nat} (h : k < 4) : digestIndex (BitVec.ofNat 10 (0x040 + 4 * k)) = k := by
  simp only [digestIndex, BitVec.extractLsb'_toNat, BitVec.toNat_ofNat, Nat.shiftRight_eq_div_pow]
  omega

theorem resultIndex_ofNat {w : Nat} (h : w < 64) : resultIndex (BitVec.ofNat 10 (0x100 + 4 * w)) = w := by
  simp only [resultIndex, BitVec.extractLsb'_toNat, BitVec.toNat_ofNat, Nat.shiftRight_eq_div_pow]
  omega

theorem decode_encode_rdDigest {k : Nat} (h : k < 4) : decode (encode (.rdDigest k)) = some (.rdDigest k) := by
  have hmatch : ∀ k < 4, BitVec.ofNat 10 (0x040 + 4 * k) &&& 0x3F0 = 0x040 := by decide
  exact decode_of_selects (r := ⟨0x040, 0x3F0, fun d _ => .rdDigest (digestIndex d)⟩) (by simp [busTable])
    (beq_of_eq (hmatch k h)) (congrArg Instr.rdDigest (digestIndex_ofNat h))

theorem decode_encode_rdResult {w : Nat} (h : w < 64) : decode (encode (.rdResult w)) = some (.rdResult w) := by
  have hmatch : ∀ w < 64, BitVec.ofNat 10 (0x100 + 4 * w) &&& 0x300 = 0x100 := by decide
  exact decode_of_selects (r := ⟨0x100, 0x300, fun d _ => .rdResult (resultIndex d)⟩) (by simp [busTable])
    (beq_of_eq (hmatch w h)) (congrArg Instr.rdResult (resultIndex_ofNat h))

/-- Settles O1: the two indexed rows are selected by their descriptors, which carry the index; every other instruction
has one descriptor or command word, and its write data is handed through. -/
theorem decodeInvertsEncode : Obligations.DecodeInvertsEncode := by
  intro i hi
  cases i with
  | rdDigest k => exact decode_encode_rdDigest (of_decide_eq_true hi)
  | rdResult w => exact decode_encode_rdResult (of_decide_eq_true hi)
  | _ => rfl

/-! ### Command words -/

/-- The legal command words are 0 to 3 (30_encoding.md R84). -/
theorem decodeCmd_eq_illegal_iff (c : Word) : decodeCmd c = .illegal ↔ 4 ≤ c.toNat := by
  have hfind : decodeCmd c = .illegal ↔ cmdTable.find? (·.1 == c) = none := by
    unfold decodeCmd
    split <;> simp [*]
  have hwords : cmdTable.find? (·.1 == c) = none ↔
      (0 : Word) ≠ c ∧ (1 : Word) ≠ c ∧ (2 : Word) ≠ c ∧ (3 : Word) ≠ c := by
    simp [cmdTable]
  rw [hfind, hwords]
  bv_omega

/-- A word with RES = 0 and OP below 4 is one of 0 to 3 (30_encoding.md R82). -/
theorem illegalWord_iff (c : Word) : IllegalWord c ↔ 4 ≤ c.toNat := by omega

/-- Settles O4: both say that the word is none of 0 to 3. -/
theorem illegalWordsAreExactlyThese : Obligations.IllegalWordsAreExactlyThese :=
  fun c => (decodeCmd_eq_illegal_iff c).trans (illegalWord_iff c).symm

/-- Settles O3: the first five words are those of `encode`, CMD word 4 is illegal, and no row selects 0x00C. -/
theorem sampleWordsDecode : Obligations.SampleWordsDecode := by
  refine ⟨decodeInvertsEncode .rdStatus rfl, decodeInvertsEncode (.rdDigest 2) rfl,
    decodeInvertsEncode (.rdResult 63) rfl, decodeInvertsEncode (.wrCmd 0) rfl, decodeInvertsEncode .crypt rfl, ?_, rfl⟩
  exact congrArg CmdDecoded.row? ((decodeCmd_eq_illegal_iff 4).2 (by decide))

/-! ### What an encoded instruction runs -/

/-- A 32-bit access runs the row its descriptor decodes to (30_encoding.md R86). -/
theorem hostAccess_of_decode {d : BitVec 10} {v : Word} {i : Instr} (h : decode (.bus d v) = some i) (s : State) :
    hostAccess ⟨.word, d, v⟩ s = exec i s :=
  congrArg (execBus · s) (decode_bus_eq_some_iff.1 h)

/-- Settles O5: the step is the access at the state without its event, and the access is its decoding's meaning. -/
theorem stepRunsDecodedInstruction : Obligations.StepRunsDecodedInstruction := by
  intro s d v rest hpending
  have hstep : step s = hostAccess ⟨.word, d, v⟩ (s.popEvent rest) := by
    rw [step, hpending]
    rfl
  exact ⟨fun i hi => hstep.trans (hostAccess_of_decode hi _),
    fun a ha => hstep.trans (congrArg (execBus · _) ha)⟩

/-- The access that carries an instruction runs it. -/
theorem hostAccess_encode {i : Instr} (hi : i.WellFormed) (s : State) :
    hostAccess (encode i).transfer s = exec i s := by
  cases i with
  | nop | crypt | md5 | clear => rfl
  | _ => exact hostAccess_of_decode (decodeInvertsEncode _ hi) s

end Sys2Proof.Machine
end

section
/-! PROOF. The pseudo-operations of 30_encoding.md R91 that move byte strings: the pushes, one byte at each access, and
the reads of a view, one word at each access. -/

namespace Sys2Proof.Machine

open Sys2Proof

/-! ### The accesses of host programs -/

/-- What the access of a line does, where it is the one that carries an instruction. -/
theorem hostAccess_line {op : HostOp} {i : Instr} (hi : i.WellFormed) (h : op.transfer = (encode i).transfer)
    (s : State) : hostAccess op.transfer s = exec i s :=
  h ▸ hostAccess_encode hi s

theorem hostAccess_rdDigest {k : Nat} (h : k < 4) (s : State) :
    hostAccess (HostOp.rd (.digest (BitVec.ofNat 2 k))).transfer s = exec (.rdDigest k) s := by
  have htransfer : ∀ k < 4, (HostOp.rd (.digest (BitVec.ofNat 2 k))).transfer = (encode (.rdDigest k)).transfer := by
    decide
  exact hostAccess_line (i := .rdDigest k) (decide_eq_true h) (htransfer k h) s

theorem hostAccess_rdResult {w : Nat} (h : w < 64) (s : State) :
    hostAccess (HostOp.rd (.result (BitVec.ofNat 6 w))).transfer s = exec (.rdResult w) s := by
  have htransfer : ∀ w < 64, (HostOp.rd (.result (BitVec.ofNat 6 w))).transfer = (encode (.rdResult w)).transfer := by
    decide
  exact hostAccess_line (i := .rdResult w) (decide_eq_true h) (htransfer w h) s

/-! ### Pushing a string -/

/-- Writing a byte to `reg` where there is room for it appends it to `string` and leaves `other`. `room n` says that
`n` more bytes are accepted. -/
def PushPort (reg : HostReg) (room : Nat → State → Prop) (string other : State → List Byte) : Prop :=
  ∀ (n : Nat) (s : State) (x : Byte), room (n + 1) s →
    ∃ t, hostAccess (HostOp.wr reg (x.setWidth 32)).transfer s = .next t ∧ room n t ∧
      string t = string s ++ [x] ∧ other t = other s

/-- Pushing a string with no other agent between the accesses appends it. -/
theorem PushPort.runWords_eq {reg : HostReg} {room : Nat → State → Prop} {string other : State → List Byte}
    (hport : PushPort reg room string other) (bs : List Byte) :
    ∀ s, room bs.length s →
      ∃ t, runWords (List.replicate bs.length []) (bs.map (fun c => .wr reg (c.setWidth 32))) s = some ⟨t, [], []⟩ ∧
        string t = string s ++ bs ∧ other t = other s := by
  induction bs with
  | nil => exact fun s _ => ⟨s, rfl, (List.append_nil _).symm, rfl⟩
  | cons x bs ih =>
    intro s hroom
    obtain ⟨u, haccess, hroom', hstring, hother⟩ := hport bs.length s x hroom
    obtain ⟨t, hrun, hstring', hother'⟩ := ih u hroom'
    refine ⟨t, ?_, by rw [hstring', hstring, List.append_assoc, List.singleton_append], hother'.trans hother⟩
    rw [runWords, List.length_cons, List.replicate_succ, List.map_cons, runOps_over _ _ (runEvents_nil s) haccess rfl,
      Option.map_map]
    exact hrun

/-- A byte stored at the end of a string extends it. -/
theorem Memory.bytes_write_length {m : Memory} (n : Nat) (x : Byte) (h : m.wf = true) :
    (m.write n x).bytes (n + 1) = m.bytes n ++ [x] := by
  have hbelow : (m.write n x).bytes n = m.bytes n :=
    List.map_congr_left fun i hi => Memory.read_write_other x h (List.mem_range.1 hi).ne
  rw [Memory.bytes, List.range_succ, List.map_append, ← Memory.bytes, hbelow, List.map_singleton,
    Memory.read_write_same n x h]

theorem State.appendPw_password {s : State} (x : Byte) (hwf : s.pwBuf.wf = true) (hlen : s.pwLen.toNat < 65535) :
    (s.appendPw x).password = s.password ++ [x] := by
  have hsucc : (s.pwLen + 1).toNat = s.pwLen.toNat + 1 := by bv_omega
  rw [State.password, s.appendPw_pwLen, hsucc, s.appendPw_pwBuf, Memory.bytes_write_length _ x hwf, State.password]

theorem State.appendSalt_salt {s : State} (x : Byte) (hwf : s.saltBuf.wf = true) (hlen : s.saltLen.toNat < 65535) :
    (s.appendSalt x).salt = s.salt ++ [x] := by
  have hsucc : (s.saltLen + 1).toNat = s.saltLen.toNat + 1 := by bv_omega
  rw [State.salt, s.appendSalt_saltLen, hsucc, s.appendSalt_saltBuf, Memory.bytes_write_length _ x hwf, State.salt]

/-- The byte a push takes from a word that extends it. -/
theorem pushByte_setWidth (x : Byte) : pushByte (x.setWidth 32) = x := by
  apply BitVec.eq_of_getLsbD_eq
  intro i hi
  simpa [pushByte, hi] using fun _ => hi.trans (by decide)

theorem execWrPwPush_room {s : State} (v : Word) (idle : s.status.busy = false)
    (room : s.pwLen.toNat ≠ s.params.pwMax) : execWrPwPush v s = .next (s.appendPw (pushByte v)) := by
  simp [execWrPwPush, idle, room]

theorem execWrSaltPush_room {s : State} (v : Word) (idle : s.status.busy = false)
    (room : s.saltLen.toNat ≠ s.params.saltMax) : execWrSaltPush v s = .next (s.appendSalt (pushByte v)) := by
  simp [execWrSaltPush, idle, room]

/-- An idle engine with room for `n` more password bytes. -/
def PwRoom (n : Nat) (s : State) : Prop :=
  s.status.busy = false ∧ s.pwBuf.wf = true ∧ s.params.pwMax ≤ 65535 ∧ s.pwLen.toNat + n ≤ s.params.pwMax

/-- An idle engine with room for `n` more salt bytes. -/
def SaltRoom (n : Nat) (s : State) : Prop :=
  s.status.busy = false ∧ s.saltBuf.wf = true ∧ s.params.saltMax ≤ 230 ∧ s.saltLen.toNat + n ≤ s.params.saltMax

theorem pwPush_pushPort : PushPort .pwPush PwRoom State.password State.salt := by
  rintro n s x ⟨hidle, hwf, hcap, hroom⟩
  refine ⟨s.appendPw x, ?_, ⟨hidle, Memory.write_wf _ x hwf, hcap, ?_⟩, s.appendPw_password x hwf (by omega), rfl⟩
  · rw [hostAccess_line (i := .wrPwPush (x.setWidth 32)) rfl rfl]
    exact (execWrPwPush_room _ hidle (by omega)).trans (by rw [pushByte_setWidth])
  · rw [s.appendPw_pwLen, s.appendPw_params]
    bv_omega

theorem saltPush_pushPort : PushPort .saltPush SaltRoom State.salt State.password := by
  rintro n s x ⟨hidle, hwf, hcap, hroom⟩
  refine ⟨s.appendSalt x, ?_, ⟨hidle, Memory.write_wf _ x hwf, hcap, ?_⟩, s.appendSalt_salt x hwf (by omega), rfl⟩
  · rw [hostAccess_line (i := .wrSaltPush (x.setWidth 32)) rfl rfl]
    exact (execWrSaltPush_room _ hidle (by omega)).trans (by rw [pushByte_setWidth])
  · rw [s.appendSalt_saltLen, s.appendSalt_params]
    bv_omega

/-! ### The bytes of a view's words -/

/-- Word `k` of the view of a buffer with the bytes `f` (20_memory.md R65). -/
def viewWord (f : Nat → Byte) (k : Nat) : Word :=
  littleEndian (f (4 * k)) (f (4 * k + 1)) (f (4 * k + 2)) (f (4 * k + 3))

theorem littleEndian_toNat (b0 b1 b2 b3 : Byte) :
    (littleEndian b0 b1 b2 b3).toNat = 16777216 * b3.toNat + 65536 * b2.toNat + 256 * b1.toNat + b0.toNat := by
  show (b3 ++ b2 ++ b1 ++ b0 : BitVec (8 + 8 + 8 + 8)).toNat = _
  rw [BitVec.toNat_append, BitVec.toNat_append, BitVec.toNat_append, ← Nat.shiftLeft_add_eq_or_of_lt b2.isLt,
    ← Nat.shiftLeft_add_eq_or_of_lt b1.isLt, ← Nat.shiftLeft_add_eq_or_of_lt b0.isLt]
  omega

/-- A word read from a view gives back its four bytes. -/
theorem bytesOfWords_littleEndian (b0 b1 b2 b3 : Byte) :
    bytesOfWords [littleEndian b0 b1 b2 b3] = [b0, b1, b2, b3] := by
  have h := littleEndian_toNat b0 b1 b2 b3
  simp only [bytesOfWords, List.flatMap_singleton, List.cons.injEq, and_true]
  refine ⟨?_, ?_, ?_, ?_⟩ <;> apply BitVec.eq_of_toNat_eq <;> simp [h, Nat.shiftRight_eq_div_pow] <;> omega

theorem bytesOfWords_append (ws ws' : List Word) : bytesOfWords (ws ++ ws') = bytesOfWords ws ++ bytesOfWords ws' :=
  List.flatMap_append

/-- The first `n` words of a view give its first `4 * n` bytes. -/
theorem bytesOfWords_viewWord (f : Nat → Byte) (n : Nat) :
    bytesOfWords ((List.range n).map (viewWord f)) = (List.range (4 * n)).map f := by
  induction n with
  | zero => rfl
  | succ n ih =>
    have hword : bytesOfWords [viewWord f n] = (List.range 4).map (fun j => f (4 * n + j)) :=
      bytesOfWords_littleEndian ..
    rw [List.range_succ, List.map_append, bytesOfWords_append, ih, List.map_singleton, hword, Nat.mul_succ,
      List.range_add, List.map_append, List.map_map]
    rfl

theorem resultString_viewWord (m : Memory) (n : Word) :
    resultString n ((List.range ((n.toNat + 3) / 4)).map (viewWord m.read)) = m.bytes n.toNat := by
  rw [resultString, bytesOfWords_viewWord, ← List.map_take, List.take_range, Nat.min_eq_left (by omega), Memory.bytes]

theorem map_digestByte_range (d : Digest) : (List.range 16).map (digestByte d) = d.toList :=
  List.ext_getElem (by simp) fun i hi hi' => by
    have hi16 : i < 16 := by simpa using hi
    simp [digestByte, hi16]

/-! ### Reading a view -/

/-- The steps of the other agents before the first access of a run are part of what led to its first state. -/
theorem runOps_events {es : List Event} {s u : State} (he : runEvents es s = some u) (gaps : List (List Event))
    (op : HostOp) (ops : List HostOp) : runOps (es :: gaps) (op :: ops) s = runOps ([] :: gaps) (op :: ops) u := by
  simp [runOps, he]

/-- Reads with no other agent between them, each of which returns a word that no earlier read changes. -/
theorem runOps_reads {u : State} {reg : Nat → HostReg} {word : Nat → Word} (ks : List Nat)
    (hread : ∀ k ∈ ks, ∀ y, hostAccess (HostOp.rd (reg k)).transfer (u.respond y) = .next (u.respond (word k))) :
    ∀ y, ∃ x, runOps (List.replicate ks.length []) (ks.map (fun k => .rd (reg k))) (u.respond y) =
      some ⟨u.respond x, [], ks.map word⟩ := by
  induction ks with
  | nil => exact fun y => ⟨y, rfl⟩
  | cons k ks ih =>
    intro y
    obtain ⟨x, hrun⟩ := ih (fun k hk => hread k (List.mem_cons_of_mem _ hk)) (word k)
    refine ⟨x, ?_⟩
    rw [List.length_cons, List.replicate_succ, List.map_cons,
      runOps_over _ _ (runEvents_nil _) (hread k List.mem_cons_self y) rfl, hrun]
    rfl

theorem runOps_readDigest (u : State) : ∃ x, runOps (List.replicate 4 []) HostOp.readDigest u =
    some ⟨u.respond x, [], (List.range 4).map (viewWord (digestByte u.digestBuf))⟩ :=
  runOps_reads (List.range 4) (fun _ hk y => hostAccess_rdDigest (List.mem_range.1 hk) (u.respond y)) u.rdata

theorem runOps_readResult {n : Word} (u : State) (hn : n.toNat ≤ 256) :
    ∃ x, runOps (List.replicate ((n.toNat + 3) / 4) []) (HostOp.readResult n) u =
      some ⟨u.respond x, [], (List.range ((n.toNat + 3) / 4)).map (viewWord u.resultBuf.read)⟩ := by
  have h := runOps_reads (u := u) (reg := fun w => .result (BitVec.ofNat 6 w)) (word := viewWord u.resultBuf.read)
    (List.range ((n.toNat + 3) / 4))
    (fun _ hw y => hostAccess_rdResult (by have := List.mem_range.1 hw; omega) (u.respond y)) u.rdata
  rwa [List.length_range] at h

theorem runReadDigest_eq {es : List Event} {s u : State} (he : runEvents es s = some u) :
    ∃ x, runReadDigest (es :: List.replicate 3 []) s = some ⟨u.respond x, [], u.digestBuf.toList⟩ := by
  obtain ⟨x, hrun⟩ := runOps_readDigest u
  refine ⟨x, ?_⟩
  have hfirst : runOps (es :: List.replicate 3 []) HostOp.readDigest s = _ := (runOps_events he ..).trans hrun
  rw [runReadDigest, hfirst, Option.map_some, HostRun.mapValue, bytesOfWords_viewWord, map_digestByte_range]

theorem runOps_readResultLen {es : List Event} {s u : State} (he : runEvents es s = some u)
    (gaps : List (List Event)) : runOps (es :: gaps) HostOp.readResultLen s =
      some ⟨u.respond (u.resultLen.setWidth 32), gaps, [u.resultLen.setWidth 32]⟩ := by
  rw [HostOp.readResultLen, runOps_over gaps [] he (hostAccess_line (i := .rdResultLen) rfl rfl u) rfl, runOps_nil]
  rfl

theorem runReadResult_eq {es : List Event} {s u : State} (he : runEvents es s = some u)
    (hlen : u.resultLen.toNat ≤ 256) :
    ∃ x, runReadResult (es :: List.replicate ((u.resultLen.toNat + 3) / 4) []) s =
      some ⟨u.respond x, [], u.result⟩ := by
  have hn : (u.resultLen.setWidth 32).toNat = u.resultLen.toNat := by
    rw [BitVec.toNat_setWidth]
    omega
  obtain ⟨x, hrun⟩ := runOps_readResult (u.respond (u.resultLen.setWidth 32)) (hn.trans_le hlen)
  have hstring := resultString_viewWord u.resultBuf (u.resultLen.setWidth 32)
  rw [hn] at hrun hstring
  refine ⟨x, ?_⟩
  rw [runReadResult, runOps_readResultLen he, Option.bind_some]
  dsimp only [List.headD_cons]
  rw [hrun, Option.map_some, HostRun.mapValue, State.respond_resultBuf, hstring]
  rfl

/-- Settles O30: each push is accepted and appends its byte; each read of a view returns its word, and the words give
back the buffer's bytes. -/
theorem pseudoOperationsMoveStrings : Obligations.PseudoOperationsMoveStrings := by
  refine ⟨fun bs s hstores hinputs hidle => ⟨fun hroom => ?_, fun hroom => ?_⟩,
    fun es s u he => ⟨fun hresults => ?_, ?_⟩⟩
  · obtain ⟨hpw, -, -⟩ := hstores
    obtain ⟨⟨-, hcap, -⟩, -⟩ := hinputs
    exact pwPush_pushPort.runWords_eq bs s ⟨hidle, hpw, hcap, hroom⟩
  · obtain ⟨-, hsalt, -⟩ := hstores
    obtain ⟨⟨-, -, -, hcap⟩, -⟩ := hinputs
    exact saltPush_pushPort.runWords_eq bs s ⟨hidle, hsalt, hcap, hroom⟩
  · obtain ⟨-, hlen, -⟩ := hresults
    obtain ⟨x, hrun⟩ := runReadResult_eq he hlen
    exact ⟨x, by rw [HostLine.run, hrun]; rfl⟩
  · obtain ⟨x, hrun⟩ := runReadDigest_eq he
    exact ⟨x, by rw [HostLine.run, hrun]; rfl⟩

end Sys2Proof.Machine
end

section
/-! PROOF. What each read of the register window returns (40_host_access.md R101 to R117): the flags bit by bit, the
numbers zero-extended, the views of the digest and of the result byte by byte. -/

namespace Sys2Proof.Machine

open Sys2Proof

/-! ### Constants, capacities and lengths -/

theorem State.configWord_toNat {s : State} (h : s.params.Legal) :
    s.configWord.toNat = s.params.saltMax * 65536 + s.params.pwMax := by
  have hsalt : s.params.saltMax % 2 ^ 16 = s.params.saltMax := Nat.mod_eq_of_lt (by omega)
  have hpw : s.params.pwMax % 2 ^ 16 = s.params.pwMax := Nat.mod_eq_of_lt (by omega)
  rw [State.configWord, BitVec.toNat_append, ← Nat.shiftLeft_add_eq_or_of_lt (BitVec.isLt _), Nat.shiftLeft_eq,
    BitVec.toNat_ofNat, BitVec.toNat_ofNat, hsalt, hpw]

/-- Settles O9: the halves of CONFIG are the two parts of a concatenation. -/
theorem identityAndConfigurationReads : Obligations.IdentityAndConfigurationReads :=
  fun s => ⟨rfl, rfl, s.configWord, rfl, BitVec.extractLsb'_append_eq_right, BitVec.extractLsb'_append_eq_left,
    State.configWord_toNat⟩

/-- Settles O13: a length has 16 bits, so its extension to 32 keeps its value. -/
theorem lengthRegistersRead : Obligations.LengthRegistersRead :=
  fun _ => ⟨⟨_, rfl, BitVec.toNat_setWidth_of_le (by decide)⟩, ⟨_, rfl, BitVec.toNat_setWidth_of_le (by decide)⟩,
    ⟨_, rfl, BitVec.toNat_setWidth_of_le (by decide)⟩⟩

/-! ### Flags -/

@[simp] theorem bit_getElem_zero (b : Bool) : (bit b)[0] = b := by
  cases b <;> rfl

/-- A zero-extended value reads 0 above its own bits. -/
theorem getLsbD_setWidth_of_ge {n : Nat} (x : BitVec n) {j : Nat} (h : n ≤ j) (w : Nat) :
    (x.setWidth w).getLsbD j = false := by
  rw [BitVec.getLsbD_setWidth, BitVec.getLsbD_of_ge x j h, Bool.and_false]

/-- OP stands above the four bits BUSY, DONE, ERR and IRQ. -/
theorem State.statusWord_op (s : State) : s.statusWord.extractLsb' 4 2 = s.status.op.bits := by
  rw [State.statusWord, BitVec.extractLsb'_setWidth_of_le (by decide), BitVec.extractLsb'_append_eq_of_le (by decide),
    BitVec.extractLsb'_append_eq_of_le (by decide), BitVec.extractLsb'_append_eq_of_le (by decide),
    BitVec.extractLsb'_append_eq_of_le (by decide)]
  exact BitVec.extractLsb'_append_eq_right

/-- Settles O10: each bit is looked up in its part of the concatenation of R104, which has 7 bits. -/
theorem statusReadShowsEveryFlag : Obligations.StatusReadShowsEveryFlag := by
  intro s
  refine ⟨s.statusWord, rfl, ?_, ?_, ?_, ?_, s.statusWord_op, ?_, fun j hj => getLsbD_setWidth_of_ge _ hj 32⟩
  all_goals
    rw [State.statusWord, BitVec.getLsbD_setWidth]
    simp only [BitVec.getLsbD_append]
    simp [State.irq]

/-- Settles O11: the same of the two bits of R106. -/
theorem controlReadShowsEnables : Obligations.ControlReadShowsEnables := by
  intro s
  refine ⟨s.ctrlWord, rfl, ?_, ?_, fun j hj => getLsbD_setWidth_of_ge _ hj 32⟩
  all_goals
    rw [State.ctrlWord, BitVec.getLsbD_setWidth]
    simp only [BitVec.getLsbD_append]
    simp

/-! ### The error record -/

/-- Settles O12: the code of each cause is its number in R260; the invariant says which cause ERR = 0 leaves. -/
theorem errorRegistersRead : Obligations.ErrorRegistersRead := by
  intro s
  refine ⟨⟨s.errCode.bits.setWidth 32, rfl, ?_, fun hsound herr => ?_⟩, rfl⟩
  · cases s.errCode <;> rfl
  · obtain ⟨hnone, -⟩ := hsound.1 herr
    rw [hnone]
    rfl

/-! ### The views -/

/-- Byte `j` of word `k` of a view is byte `4k + j` of its buffer (20_memory.md R65). -/
theorem viewWord_byte (f : Nat → Byte) (k : Nat) {j : Nat} (hj : j < 4) :
    (viewWord f k).extractLsb' (8 * j) 8 = f (4 * k + j) := by
  have hword := littleEndian_toNat (f (4 * k)) (f (4 * k + 1)) (f (4 * k + 2)) (f (4 * k + 3))
  apply BitVec.eq_of_toNat_eq
  rw [BitVec.extractLsb'_toNat, viewWord, hword, Nat.shiftRight_eq_div_pow]
  match j, hj with
  | 0, _ | 1, _ | 2, _ | 3, _ => simp; omega

theorem getElem?_eq_digestByte (d : Digest) {i : Nat} (h : i < 16) : d[i]? = some (digestByte d i) := by
  simp [digestByte, h]

/-- Settles O14: the word is word `k` of the view of the digest buffer, whose 16 bytes are all there. -/
theorem digestViewIsLittleEndian : Obligations.DigestViewIsLittleEndian := by
  refine fun s k hk => ⟨viewWord (digestByte s.digestBuf) k, rfl, fun j hj => ?_⟩
  rw [viewWord_byte _ k hj, getElem?_eq_digestByte s.digestBuf (by omega)]

/-- Settles O15: the word is word `w` of the view of the result buffer, which lists nothing from RESULT_LEN upward. -/
theorem resultViewIsLittleEndian : Obligations.ResultViewIsLittleEndian := by
  refine fun s w _ => ⟨viewWord s.resultBuf.read w, rfl, fun j hj => ?_⟩
  rw [viewWord_byte _ w hj]
  refine ⟨rfl, fun hsound hlen => ?_⟩
  obtain ⟨hbelow, -⟩ := hsound
  exact Memory.read_eq_zero_of_below hbelow hlen

end Sys2Proof.Machine
end

section
/-! PROOF. The accesses no row of the table lists (40_host_access.md R118 to R121): reads answer 0, writes are
ignored. -/

namespace Sys2Proof.Machine

open Sys2Proof

/-- The default access of a descriptor reads 0 or does nothing, as its write flag says (30_encoding.md R86). -/
theorem execDefault_defaultOf (d : BitVec 10) (s : State) :
    execDefault (defaultOf d) s = .next (if isWrite d then s else s.respond 0) := by
  unfold defaultOf
  split
  · split <;> rfl
  · split <;> rfl

/-- The descriptors from a row's pattern up to its pattern with every ignored bit set, as numbers. -/
def Covers (r : BusRow) (n : Nat) : Prop :=
  r.pat.toNat ≤ n ∧ n ≤ r.pat.toNat + (1023 - r.mask.toNat)

/-- A row selects only descriptors that have its pattern and some of the ignored bits. -/
theorem covers_of_selects {r : BusRow} {d : BitVec 10} (h : r.selects d = true) : Covers r d.toNat := by
  have hpat : d &&& r.mask = r.pat := eq_of_beq h
  have hdisjoint : (d &&& r.mask) &&& (d &&& ~~~r.mask) = 0#10 := by
    rw [BitVec.and_comm d (~~~r.mask), ← BitVec.and_assoc, BitVec.and_assoc d, BitVec.and_not_self]
    simp
  have hunion : (d &&& r.mask) ||| (d &&& ~~~r.mask) = d := by
    rw [← BitVec.and_or_distrib_left, BitVec.or_not_self, BitVec.and_allOnes]
  have hsum := BitVec.toNat_add_of_and_eq_zero hdisjoint
  rw [BitVec.add_eq_or_of_and_eq_zero _ _ hdisjoint, hunion, hpat] at hsum
  have hignored : (d &&& ~~~r.mask).toNat ≤ (~~~r.mask).toNat := Nat.and_le_right
  rw [BitVec.toNat_not] at hignored
  exact ⟨by omega, by omega⟩

/-- The ranges of descriptors that the rows of the table cover (30_encoding.md R85): first the reads, then the
writes. -/
theorem ranges_of_covers (n : Nat) : ∀ r ∈ busTable, Covers r n →
    n < 0x00C ∨ (0x010 ≤ n ∧ n < 0x018) ∨ (0x01C ≤ n ∧ n < 0x030) ∨ (0x040 ≤ n ∧ n < 0x050) ∨
      (0x100 ≤ n ∧ n < 0x200) ∨ (0x210 ≤ n ∧ n < 0x21C) ∨ (0x230 ≤ n ∧ n < 0x238) := by
  simp [busTable, Covers]
  omega

theorem descriptor_toNat (write : Bool) (off : BitVec 9) :
    (BitVec.ofBool write ++ off).toNat = (if write then 512 else 0) + off.toNat := by
  rw [BitVec.toNat_append, ← Nat.shiftLeft_add_eq_or_of_lt off.isLt]
  cases write <;> rfl

/-- An access whose descriptor no row covers is a default access. -/
theorem hostAccess_of_not_covered {write : Bool} {off : BitVec 9}
    (h : ∀ r ∈ busTable, ¬Covers r ((if write then 512 else 0) + off.toNat)) (v : Word) (s : State) :
    hostAccess (access write off v) s = .next (if write then s else s.respond 0) := by
  rw [← descriptor_toNat] at h
  have hnone : busTable.find? (·.selects (BitVec.ofBool write ++ off)) = none :=
    List.find?_eq_none.2 fun r hr hsel => h r hr (covers_of_selects hsel)
  have hdecode : decodeBus (BitVec.ofBool write ++ off) v = .unlisted (defaultOf (BitVec.ofBool write ++ off)) := by
    rw [decodeBus, hnone]
  calc hostAccess (access write off v) s
      = execDefault (defaultOf (BitVec.ofBool write ++ off)) s := congrArg (execBus · s) hdecode
    _ = .next (if write then s else s.respond 0) := by rw [execDefault_defaultOf, isWrite_descriptor]

/-- The reads of R118 and R120: no row with W = 0 stands at these words. -/
theorem hostAccess_read_unlisted {off : BitVec 9}
    (h : Reserved (wordOf off) ∨ wordOf off = 0x018 ∨ wordOf off = 0x030 ∨ wordOf off = 0x034) (v : Word)
    (s : State) : hostAccess (access false off v) s = .next (s.respond 0) := by
  refine hostAccess_of_not_covered (write := false) (fun r hr hcovers => ?_) v s
  have hranges := ranges_of_covers _ r hr hcovers
  rw [wordOf] at h
  rw [if_neg Bool.false_ne_true] at hranges
  omega

/-- The writes of R119 and R121: the rows with W = 1 are those of CTRL, STATUS, CMD and the push ports. -/
theorem hostAccess_write_unlisted {off : BitVec 9}
    (h : ¬(0x010 ≤ wordOf off ∧ wordOf off < 0x01C) ∧ ¬(0x030 ≤ wordOf off ∧ wordOf off < 0x038)) (v : Word)
    (s : State) : hostAccess (access true off v) s = .next s := by
  refine hostAccess_of_not_covered (write := true) (fun r hr hcovers => ?_) v s
  have hranges := ranges_of_covers _ r hr hcovers
  rw [wordOf] at h
  rw [if_pos rfl] at hranges
  omega

/-- Settles O18: none of these words has a row for the direction of the access. -/
theorem unlistedAccessesReadZeroOrAreIgnored : Obligations.UnlistedAccessesReadZeroOrAreIgnored :=
  fun _ v s => ⟨fun h => ⟨hostAccess_read_unlisted (.inl h) v s, hostAccess_write_unlisted (by omega) v s⟩,
    fun h => hostAccess_read_unlisted (.inr h) v s, fun h => hostAccess_write_unlisted (by omega) v s⟩

end Sys2Proof.Machine
end

section
/-! PROOF. What each write of the register window leaves (40_host_access.md R105, R107, R115, R116). -/

namespace Sys2Proof.Machine

open Sys2Proof

/-- Settles O20: the two enables are the operand's bits. -/
theorem controlWriteSetsEnables : Obligations.ControlWriteSetsEnables :=
  fun _ _ => rfl

theorem State.clearDone_if (s : State) (b : Bool) :
    (if b then s.clearDone else s) = { s with status := { s.status with done := s.status.done && !b } } := by
  cases b
  · simp
  · simp [State.clearDone]

theorem State.clearError_if (s : State) (b : Bool) :
    (if b then s.clearError else s) =
      { s with
        status := { s.status with err := s.status.err && !b, emult := s.status.emult && !b }
        errCode := if b then .none else s.errCode
        errInfo := if b then 0 else s.errInfo } := by
  cases b
  · simp
  · simp [State.clearError]

/-- Settles O19: a bit that is 1 clears its flags, a bit that is 0 leaves them. -/
theorem statusWriteClearsOnes : Obligations.StatusWriteClearsOnes := by
  intro v s
  show execWrStatus v s = _
  rw [execWrStatus, State.clearDone_if, State.clearError_if]
  rfl

/-! ### The push ports -/

theorem pushByte_eq_setWidth (v : Word) : pushByte v = v.setWidth 8 :=
  (BitVec.setWidth_eq_extractLsb' (by decide)).symm

theorem overflowInfo_toNat (v : Word) : (overflowInfo v).toNat = v.toNat % 256 := by
  rw [overflowInfo, pushByte_eq_setWidth, BitVec.toNat_setWidth_of_le (by decide), BitVec.toNat_setWidth]

theorem busyInfo_toNat (v : Word) (off : BitVec 16) :
    (busyInfo v off).toNat = v.toNat % 256 * 65536 + off.toNat := by
  show ((0 : BitVec 8) ++ pushByte v ++ off : BitVec (8 + 8 + 16)).toNat = _
  rw [BitVec.toNat_append, BitVec.toNat_append, ← Nat.shiftLeft_add_eq_or_of_lt off.isLt, pushByte_eq_setWidth]
  simp [Nat.shiftLeft_eq]

theorem execWrPwPush_busy {s : State} (v : Word) (hbusy : s.status.busy = true) :
    execWrPwPush v s = .next (s.raiseError .busy (busyInfo v 0x0030)) := by
  rw [execWrPwPush, if_pos hbusy]

theorem execWrSaltPush_busy {s : State} (v : Word) (hbusy : s.status.busy = true) :
    execWrSaltPush v s = .next (s.raiseError .busy (busyInfo v 0x0034)) := by
  rw [execWrSaltPush, if_pos hbusy]

theorem execWrPwPush_full {s : State} (v : Word) (idle : s.status.busy = false)
    (hfull : s.pwLen.toNat = s.params.pwMax) :
    execWrPwPush v s = .next (s.raiseError .pwOverflow (overflowInfo v)) := by
  simp [execWrPwPush, idle, hfull]

theorem execWrSaltPush_full {s : State} (v : Word) (idle : s.status.busy = false)
    (hfull : s.saltLen.toNat = s.params.saltMax) :
    execWrSaltPush v s = .next (s.raiseError .saltOverflow (overflowInfo v)) := by
  simp [execWrSaltPush, idle, hfull]

/-- Settles O27: the branches of the push; the stored byte is the write's, every other one is read as before. -/
theorem passwordPushOutcome : Obligations.PasswordPushOutcome := by
  refine fun v s hwf => ⟨fun hbusy => ⟨_, busyInfo_toNat v 0x0030, execWrPwPush_busy v hbusy⟩,
    fun idle hfull => ⟨_, overflowInfo_toNat v, execWrPwPush_full v idle hfull⟩,
    fun idle room => ⟨_, execWrPwPush_room v idle room, Memory.write_wf _ _ hwf, fun a => ?_⟩⟩
  rw [Memory.read_write _ a _ hwf, pushByte_eq_setWidth]

/-- Settles O28: the same of the salt buffer. -/
theorem saltPushOutcome : Obligations.SaltPushOutcome := by
  refine fun v s hwf => ⟨fun hbusy => ⟨_, busyInfo_toNat v 0x0034, execWrSaltPush_busy v hbusy⟩,
    fun idle hfull => ⟨_, overflowInfo_toNat v, execWrSaltPush_full v idle hfull⟩,
    fun idle room => ⟨_, execWrSaltPush_room v idle room, Memory.write_wf _ _ hwf, fun a => ?_⟩⟩
  rw [Memory.read_write _ a _ hwf, pushByte_eq_setWidth]

end Sys2Proof.Machine
end

section
/-! PROOF. The commands (41_commands.md R140 to R145): what a write of each word to CMD does. -/

namespace Sys2Proof.Machine

open Sys2Proof

/-! ### Command words -/

/-- The check of R145 reads the fields OP and RES of R82. -/
theorem cmd_fields_illegal_iff (c : Word) : cmdRes c ≠ 0 ∨ 4 ≤ (cmdOp c).toNat ↔ IllegalWord c := by
  have hop : (cmdOp c).toNat = c.toNat % 16 := by simp [cmdOp]
  have hres : (cmdRes c).toNat = c.toNat / 16 := by
    rw [cmdRes, BitVec.extractLsb'_toNat, Nat.shiftRight_eq_div_pow]
    omega
  have hzero : cmdRes c ≠ 0 ↔ c.toNat / 16 ≠ 0 := by
    rw [← hres]
    exact BitVec.toNat_ne_iff_ne.symm
  rw [hop, hzero, or_comm]

theorem execWrCmd_illegal {c : Word} (h : IllegalWord c) (s : State) :
    execWrCmd c s = .next (s.raiseError .illegalCmd c) :=
  if_pos ((cmd_fields_illegal_iff c).2 h)

/-- Settles O32: the legality of the word is the first check of a command. -/
theorem illegalCommandRecordsItsWord : Obligations.IllegalCommandRecordsItsWord :=
  fun _ s h => execWrCmd_illegal h s

/-- A word that is not illegal is one of the four of R84. -/
theorem legalWord_cases {c : Word} (h : ¬IllegalWord c) : c = 0x0 ∨ c = 0x1 ∨ c = 0x2 ∨ c = 0x3 := by
  rw [illegalWord_iff] at h
  bv_omega

theorem not_illegalWord_of_decode {c : Word} {i : Instr} (h : decode (.cmd c) = some i) : ¬IllegalWord c := by
  intro hillegal
  have hdecode := (illegalWordsAreExactlyThese c).2 hillegal
  simp [decode, hdecode, CmdDecoded.row?] at h

/-- Settles O33: a word that decodes is one of four, and each selects its own branch of the command. -/
theorem commandWordRunsItsInstruction : Obligations.CommandWordRunsItsInstruction := by
  intro c i s h
  obtain rfl | rfl | rfl | rfl := legalWord_cases (not_illegalWord_of_decode h)
  all_goals
    obtain rfl := Option.some.inj h
    rfl

/-- Settles O34: 0 is the word of NOP, whose meaning is the state itself. -/
theorem nopChangesNothing : Obligations.NopChangesNothing :=
  fun s => ⟨rfl, commandWordRunsItsInstruction 0x0 .nop s rfl⟩

/-! ### The commands an operation refuses -/

theorem State.unlessBusy_of_idle {s : State} (idle : s.status.busy = false) (c : Word) (t : State) :
    s.unlessBusy c t = t :=
  if_neg (by simp [idle])

theorem State.unlessBusy_of_busy {s : State} (hb : s.status.busy = true) (c : Word) (t : State) :
    s.unlessBusy c t = s.raiseError .busy (busyInfo c 0x0018) :=
  if_pos hb

/-- Settles O35: the idle branch is the start of CRYPT, the busy one records the word 1. -/
theorem cryptStartsOperation : Obligations.CryptStartsOperation :=
  fun s => ⟨fun idle => ⟨congrArg Host.Outcome.next (State.unlessBusy_of_idle idle _ _),
      commandWordRunsItsInstruction 0x1 .crypt s rfl⟩,
    fun hb => congrArg Host.Outcome.next (State.unlessBusy_of_busy hb _ _)⟩

/-- Settles O36: the same of MD5 and the word 2. -/
theorem md5StartsOperation : Obligations.Md5StartsOperation :=
  fun s => ⟨fun idle => ⟨congrArg Host.Outcome.next (State.unlessBusy_of_idle idle _ _),
      commandWordRunsItsInstruction 0x2 .md5 s rfl⟩,
    fun hb => congrArg Host.Outcome.next (State.unlessBusy_of_busy hb _ _)⟩

/-- Settles O37: the same of CLEAR and the word 3; what it zeroes in an idle engine is all but CTRL. -/
theorem clearLeavesOnlyControl : Obligations.ClearLeavesOnlyControl :=
  fun s => ⟨fun idle =>
      ⟨congrArg Host.Outcome.next ((State.unlessBusy_of_idle idle _ _).trans (State.clearAll_eq idle)),
        commandWordRunsItsInstruction 0x3 .clear s rfl⟩,
    fun hb => congrArg Host.Outcome.next (State.unlessBusy_of_busy hb _ _)⟩

end Sys2Proof.Machine
end

section
/-! PROOF. What accesses do to BUSY and to a running operation: they cannot touch it (41_commands.md R146, R148), and
only the start words set BUSY (R140 to R142). -/

namespace Sys2Proof.Machine

open Sys2Proof

/-- All that an access can change while an operation runs: the enables, the flags DONE, ERR and EMULT, the error
record and the data of the latest read. -/
theorem AccessEffect.running_frame {s t : State} (he : AccessEffect s t) (hb : s.status.busy = true) :
    ∃ ctrl done err emult errCode errInfo rdata,
      t = { s with
        ctrl := ctrl
        status := { s.status with done := done, err := err, emult := emult }
        errCode := errCode, errInfo := errInfo, rdata := rdata } := by
  cases he with
  | pushPw x idle | pushSalt x idle | startCrypt idle | startMd5 idle | clearAll idle =>
    exact absurd (hb.symm.trans idle) nofun
  | raise code info hc =>
    rw [State.raiseError_eq]
    exact ⟨s.ctrl, s.status.done, _, _, _, _, s.rdata, rfl⟩
  | _ => exact ⟨_, _, _, _, _, _, _, rfl⟩

/-- Settles O31: none of the fields named is among those an access can change while an operation runs. -/
theorem runningOperationIsUndisturbed : Obligations.RunningOperationIsUndisturbed := by
  intro tr s t h hb
  obtain ⟨ctrl, done, err, emult, errCode, errInfo, rdata, rfl⟩ := (AccessEffect.of_hostAccess h).running_frame hb
  exact ⟨hb, rfl, rfl, rfl, rfl, rfl, rfl, rfl, rfl, rfl, rfl, rfl, rfl⟩

/-! ### BUSY -/

theorem State.raiseError_busy (s : State) (code : ErrCode) (info : Word) :
    (s.raiseError code info).status.busy = s.status.busy := by
  rw [State.raiseError_eq]

theorem State.ite_busy {c : Prop} [Decidable c] {a b : State} {x : Bool} (ha : a.status.busy = x)
    (hb : b.status.busy = x) : (if c then a else b).status.busy = x := by
  split
  · exact ha
  · exact hb

theorem execWrStatus_keeps_busy {v : Word} {s t : State} (h : execWrStatus v s = .next t) :
    t.status.busy = s.status.busy := by
  obtain rfl := Host.Outcome.next.inj h
  cases clearsDone v <;> cases clearsErr v <;> rfl

theorem execWrPwPush_keeps_busy {v : Word} {s t : State} (h : execWrPwPush v s = .next t) :
    t.status.busy = s.status.busy := by
  obtain rfl := Host.Outcome.next.inj h
  exact State.ite_busy (s.raiseError_busy _ _) (State.ite_busy (s.raiseError_busy _ _) rfl)

theorem execWrSaltPush_keeps_busy {v : Word} {s t : State} (h : execWrSaltPush v s = .next t) :
    t.status.busy = s.status.busy := by
  obtain rfl := Host.Outcome.next.inj h
  exact State.ite_busy (s.raiseError_busy _ _) (State.ite_busy (s.raiseError_busy _ _) rfl)

theorem execClear_keeps_busy {s t : State} (h : execClear s = .next t) : t.status.busy = s.status.busy := by
  obtain rfl := Host.Outcome.next.inj h
  exact State.ite_busy (s.raiseError_busy _ _) rfl

/-- A command word that changes BUSY is a start word. -/
theorem execWrCmd_busy_ne {c : Word} {s t : State} (h : execWrCmd c s = .next t)
    (hne : t.status.busy ≠ s.status.busy) : c = 0x1 ∨ c = 0x2 := by
  by_cases hc : IllegalWord c
  · rw [execWrCmd_illegal hc] at h
    obtain rfl := Host.Outcome.next.inj h
    exact absurd (s.raiseError_busy _ _) hne
  · obtain rfl | rfl | rfl | rfl := legalWord_cases hc
    · obtain rfl := Host.Outcome.next.inj h
      exact absurd rfl hne
    · exact .inl rfl
    · exact .inr rfl
    · exact absurd (execClear_keeps_busy h) hne

/-- An instruction that changes BUSY is CRYPT or MD5, or the write of a start word. -/
theorem exec_busy_ne {i : Instr} {s t : State} (h : exec i s = .next t) (hne : t.status.busy ≠ s.status.busy) :
    i = .crypt ∨ i = .md5 ∨ ∃ c, i = .wrCmd c ∧ (c = 0x1 ∨ c = 0x2) := by
  cases i with
  | crypt => exact .inl rfl
  | md5 => exact .inr (.inl rfl)
  | wrCmd c => exact .inr (.inr ⟨c, rfl, execWrCmd_busy_ne h hne⟩)
  | wrStatus v => exact absurd (execWrStatus_keeps_busy h) hne
  | wrPwPush v => exact absurd (execWrPwPush_keeps_busy h) hne
  | wrSaltPush v => exact absurd (execWrSaltPush_keeps_busy h) hne
  | clear => exact absurd (execClear_keeps_busy h) hne
  | _ =>
    cases h
    exact absurd rfl hne

theorem execDefault_keeps_busy {a : DefaultAccess} {s t : State} (h : execDefault a s = .next t) :
    t.status.busy = s.status.busy := by
  cases a <;> cases h <;> rfl

/-- No row of the BUS table is a CMD row. -/
theorem decodeBus_ne_start {d : BitVec 10} {v : Word} {i : Instr} (h : decodeBus d v = .row i) :
    i ≠ .crypt ∧ i ≠ .md5 := by
  obtain ⟨r, hr, -, rfl⟩ := exists_row_of_decodeBus h
  have hrows : ∀ r ∈ busTable, r.build d v ≠ .crypt ∧ r.build d v ≠ .md5 := by simp [busTable]
  exact hrows r hr

/-- The descriptors of WR_CMD; the word is the write data. -/
theorem masked_of_decodeBus_wrCmd {d : BitVec 10} {v c : Word} (h : decodeBus d v = .row (.wrCmd c)) :
    d &&& 0x3FC = 0x218 ∧ v = c := by
  obtain ⟨r, hr, hsel, hbuild⟩ := exists_row_of_decodeBus h
  have hrows : ∀ r ∈ busTable, r.build d v = .wrCmd c → r.pat = 0x218 ∧ r.mask = 0x3FC ∧ v = c := by
    simp [busTable]
  obtain ⟨hpat, hmask, hv⟩ := hrows r hr hbuild
  exact ⟨by simpa [BusRow.selects, hpat, hmask] using hsel, hv⟩

/-- An access that changes BUSY is a 32-bit access that decodes to WR_CMD of a start word. -/
theorem decodeBus_of_hostAccess_busy_ne {tr : Transfer} {s t : State} (h : hostAccess tr s = .next t)
    (hne : t.status.busy ≠ s.status.busy) :
    tr.size = .word ∧ ∃ c, decodeBus tr.desc tr.wdata = .row (.wrCmd c) ∧ (c = 0x1 ∨ c = 0x2) := by
  unfold hostAccess at h
  split at h
  · refine ⟨‹_›, ?_⟩
    unfold execBus at h
    split at h
    · rename_i i hdec
      obtain ⟨hcrypt, hmd5⟩ := decodeBus_ne_start hdec
      obtain hi | hi | ⟨c, rfl, hc⟩ := exec_busy_ne h hne
      · exact absurd hi hcrypt
      · exact absurd hi hmd5
      · exact ⟨c, hdec, hc⟩
    · exact absurd (execDefault_keeps_busy h) hne
  · cases h
  · cases h

/-- Settles O59: an access keeps BUSY at 1, and of the rows only WR_CMD of a start word changes it. -/
theorem busyIsSetOnlyByStartCommands : Obligations.BusyIsSetOnlyByStartCommands := by
  intro tr s t h hne
  have hidle : s.status.busy = false := by
    by_contra hb
    obtain ⟨hkeep, -⟩ := runningOperationIsUndisturbed tr s t h (Bool.eq_true_of_not_eq_false hb)
    exact hne (hkeep.trans (Bool.eq_true_of_not_eq_false hb).symm)
  obtain ⟨hsize, c, hdec, hc⟩ := decodeBus_of_hostAccess_busy_ne h hne
  obtain ⟨hmasked, rfl⟩ := masked_of_decodeBus_wrCmd hdec
  have hwrite : isWrite tr.desc = true := isWrite_of_masked hmasked rfl
  refine ⟨hidle, tr.desc.setWidth 9, tr.wdata, ?_, wordOf_of_masked hmasked, hc⟩
  rw [← hwrite, ← Transfer.eq_access hsize]

end Sys2Proof.Machine
end

section
/-! PROOF. Completion (41_commands.md R146 to R148): what it publishes, and that a running operation reaches it. -/

namespace Sys2Proof.Machine

open Sys2Proof

/-! ### The completion step -/

/-- The step that takes the completion as its event, or takes it because no event is left. -/
theorem step_eq_complete {s : State} {rest : List Event}
    (h : s.pending = .complete :: rest ∨ s.pending = [] ∧ rest = []) :
    step s = .next (s.popEvent rest).complete := by
  obtain ⟨hnil, -, -, hcomplete, -⟩ := stepTakesTheNextEvent s rest
  obtain hpending | ⟨hpending, rfl⟩ := h
  · exact hcomplete hpending
  · have hpop : s.popEvent [] = s := by
      rw [State.popEvent, ← hpending]
    rw [hnil hpending, hpop]

theorem State.complete_crypt {s : State} (hb : s.status.busy = true) (ho : s.status.op = .crypt) :
    s.complete = s.completeCrypt := by
  simp only [State.complete, hb, ho, if_true]

theorem State.complete_md5 {s : State} (hb : s.status.busy = true) (ho : s.status.op = .md5) :
    s.complete = s.completeMd5 := by
  simp only [State.complete, hb, ho, if_true]

/-- A string of at most 256 bytes stands whole in the result buffer, with zeros after it (44_encoder.md R246). -/
theorem assemble_eq_ofBytes {bs : List Byte} (h : bs.length ≤ 256) : assemble bs = Memory.ofBytes bs := by
  rw [assemble, List.take_of_length_le h]

/-- The result string of a salt of legal length fits the result buffer (44_encoder.md R247). -/
theorem encodedHash_length_le {s : State} (h : s.saltLen.toNat ≤ 230) (fd : Digest) :
    (encodedHash s.salt fd).length ≤ 256 := by
  rw [encodedHash_length, s.salt_length]
  omega

/-- Settles O38: the completion assembles the encoded string, which fits the result buffer. -/
theorem cryptCompletionPublishesTheHash : Obligations.CryptCompletionPublishesTheHash := by
  intro s rest hb ho hsalt hpending
  refine ⟨(s.popEvent rest).completeCrypt, ?_, rfl, State.completeCrypt_resultLen hsalt, fun i => ?_, rfl⟩
  · rw [step_eq_complete hpending, State.complete_crypt (s := s.popEvent rest) hb ho]
  · show (assemble (encodedHash s.salt (finalDigest s.password s.salt))).read i = _
    rw [assemble_eq_ofBytes (encodedHash_length_le hsalt _), Memory.read_ofBytes]

/-- Settles O39: the completion writes the digest and the core, and ends the operation. -/
theorem md5CompletionPublishesTheDigest : Obligations.Md5CompletionPublishesTheDigest := by
  intro s rest hb ho hpending
  refine ⟨(s.popEvent rest).completeMd5, ?_, rfl⟩
  rw [step_eq_complete hpending, State.complete_md5 (s := s.popEvent rest) hb ho]

/-! ### A running operation completes -/

/-- In `t` the operation of `s` is over, with the results of the inputs of `s`. -/
def State.CompletedIn (s t : State) : Prop :=
  t.status.busy = false ∧ t.status.done = true ∧ t.status.op = s.status.op ∧
    (s.status.op = .crypt → t.digestBuf = finalDigest s.password s.salt ∧
      t.result = encodedHash s.salt (finalDigest s.password s.salt)) ∧
    (s.status.op = .md5 → t.digestBuf = md5 s.password ∧ t.resultLen = 0)

/-- In `t` the operation of `s` still runs, on the same inputs, with the events `rest` to come. -/
def State.StillRunsIn (s t : State) (rest : List Event) : Prop :=
  t.status.busy = true ∧ t.status.op = s.status.op ∧ t.password = s.password ∧ t.salt = s.salt ∧ t.pending = rest

theorem State.StillRunsIn.completedIn {s u t : State} {rest : List Event} (h : s.StillRunsIn u rest)
    (hc : u.CompletedIn t) : s.CompletedIn t := by
  obtain ⟨-, hop, hpw, hsalt, -⟩ := h
  rwa [State.CompletedIn, hop, hpw, hsalt] at hc

/-- The result string reads back after a CRYPT completion. -/
theorem State.completeCrypt_result {s : State} (h : s.saltLen.toNat ≤ 230) :
    s.completeCrypt.result = encodedHash s.salt (finalDigest s.password s.salt) := by
  have hlen : s.completeCrypt.resultLen.toNat = (encodedHash s.salt (finalDigest s.password s.salt)).length := by
    rw [State.completeCrypt_resultLen h, encodedHash_length, s.salt_length]
  have hbuf : s.completeCrypt.resultBuf = Memory.ofBytes (encodedHash s.salt (finalDigest s.password s.salt)) :=
    assemble_eq_ofBytes (encodedHash_length_le h _)
  rw [State.result, hlen, hbuf, Memory.bytes_ofBytes]

/-- The completion step ends a running operation: the invariant names its kind, bounds the salt and says that the
result of MD5 is empty. -/
theorem State.completedIn_complete {s : State} (h : s.Inv) (hb : s.status.busy = true) : s.CompletedIn s.complete := by
  obtain ⟨-, ⟨⟨-, -, -, hmax⟩, -, hsalt, -⟩, ⟨-, -, hempty, -⟩, -, ⟨-, hrun, -⟩, -⟩ := h
  obtain ⟨-, ⟨ho, -⟩ | ⟨ho, -⟩⟩ := hrun hb
  · rw [State.complete_crypt hb ho]
    exact ⟨rfl, rfl, rfl, fun _ => ⟨rfl, State.completeCrypt_result (hsalt.trans hmax)⟩,
      fun hno => absurd (ho.symm.trans hno) nofun⟩
  · rw [State.complete_md5 hb ho]
    exact ⟨rfl, rfl, rfl, fun hno => absurd (ho.symm.trans hno) nofun, fun _ => ⟨rfl, hempty (by simp [ho])⟩⟩

/-- A step with an event that does not stop the operation completes it or leaves it running. -/
theorem step_of_serves {s : State} {e : Event} {rest : List Event} (h : s.Inv) (hb : s.status.busy = true)
    (hpending : s.pending = e :: rest) (he : e.serves = true) :
    ∃ t, step s = .next t ∧ (s.CompletedIn t ∨ s.StillRunsIn t rest) := by
  have hstep : step s = runEvent e (s.popEvent rest) := by
    rw [step, hpending]
  rw [hstep]
  cases e with
  | host tr =>
    obtain ⟨t, hrun, heffect⟩ := hostAccess_effect (eq_of_beq he) (s.popEvent rest)
    refine ⟨t, hrun, .inr ?_⟩
    obtain ⟨ctrl, done, err, emult, errCode, errInfo, rdata, rfl⟩ := heffect.running_frame hb
    exact ⟨hb, rfl, rfl, rfl, rfl⟩
  | work =>
    refine ⟨_, rfl, .inr ?_⟩
    obtain ⟨core, alt, dig, seq, hw⟩ := (s.popEvent rest).work_frame
    rw [hw]
    exact ⟨hb, rfl, rfl, rfl, rfl⟩
  | complete => exact ⟨_, rfl, .inl (State.completedIn_complete (h.popEvent rest) hb)⟩
  | reset r => cases he

/-- A run begins with its first step. -/
theorem core_run_succ {s t : State} (h : step s = .next t) (k : Nat) :
    Host.Core.run core (k + 1) s = Host.Core.run core k t := by
  have hcore : core.step s = .next t := h
  simp only [Host.Core.run, hcore]

/-- The bound on the steps to completion, by induction on the events to come. -/
theorem exists_run_completedIn (events : List Event) :
    ∀ s : State, s.pending = events → s.Inv → s.status.busy = true → (∀ e ∈ events, e.serves = true) →
      ∃ k t, k ≤ events.length + 1 ∧ Host.Core.run core k s = .next t ∧ s.CompletedIn t := by
  induction events with
  | nil =>
    intro s hpending h hb _
    obtain ⟨hnil, -⟩ := stepTakesTheNextEvent s []
    exact ⟨1, s.complete, Nat.le_refl 1, core_run_succ (hnil hpending) 0, State.completedIn_complete h hb⟩
  | cons e rest ih =>
    intro s hpending h hb hserves
    obtain ⟨u, hstep, hdone | hruns⟩ := step_of_serves h hb hpending (hserves e List.mem_cons_self)
    · exact ⟨1, u, by simp, core_run_succ hstep 0, hdone⟩
    · obtain ⟨hbusy, -, -, -, hrest⟩ := id hruns
      obtain ⟨k, t, hk, hrun, hdone⟩ := ih u hrest (invariantKeptByEveryStep s u h hstep) hbusy
        fun e' he' => hserves e' (List.mem_cons_of_mem e he')
      exact ⟨k + 1, t, Nat.succ_le_succ hk, (core_run_succ hstep k).trans hrun, hruns.completedIn hdone⟩

/-- Settles O41: each event to come completes the operation or leaves it running on its inputs, and when none is left
it completes. -/
theorem startedOperationCompletes : Obligations.StartedOperationCompletes :=
  fun s h hb hserves => exists_run_completedIn s.pending s rfl h hb hserves

end Sys2Proof.Machine
end

section
/-! PROOF. The MD5 core over a byte string (42_md5_core.md R180 to R185): MLEN and FILL count the bytes absorbed, and a
digest computation forgets what the core held. -/

namespace Sys2Proof.Machine

open Sys2Proof

/-! ### The bytes absorbed -/

theorem md5Steps_mlen (n : Nat) (m : Md5Core) : (md5Steps n m).mlen = m.mlen := by
  induction n with
  | zero => rfl
  | succ n ih => exact ih

@[simp] theorem md5Compress_mlen (m : Md5Core) : (md5Compress m).mlen = m.mlen := by
  rw [md5Compress, Md5Core.addWorking, md5Steps_mlen, Md5Core.loadWorking]

@[simp] theorem md5Absorb_mlen (m : Md5Core) (x : Byte) : (md5Absorb m x).mlen = m.mlen + 1 := by
  unfold md5Absorb Md5Core.compressIfFull
  split
  · rw [md5Compress_mlen]
  · rfl

/-- FILL counts modulo 64, because the compression of a full block empties it. -/
theorem md5Absorb_fill {m : Md5Core} (x : Byte) (h : m.fill.toNat < 64) :
    (md5Absorb m x).fill.toNat = (m.fill.toNat + 1) % 64 := by
  unfold md5Absorb Md5Core.compressIfFull
  split
  · rename_i hfull
    have hfull : m.fill + 1 = 64 := hfull
    rw [md5Compress_fill]
    bv_omega
  · rename_i hnot
    have hnot : m.fill + 1 ≠ 64 := hnot
    show (m.fill + 1).toNat = _
    bv_omega

/-- What the core's counters show after `n` absorbed bytes. -/
def Md5Core.Counts (m : Md5Core) (n : Nat) : Prop :=
  m.mlen = BitVec.ofNat 64 n ∧ m.fill.toNat = n % 64 ∧ m.t = 0

theorem md5Init_counts (m : Md5Core) : (md5Init m).Counts 0 := ⟨rfl, rfl, rfl⟩

theorem Md5Core.Counts.md5Absorb {m : Md5Core} {n : Nat} (h : m.Counts n) (x : Byte) :
    (md5Absorb m x).Counts (n + 1) := by
  obtain ⟨hmlen, hfill, ht⟩ := h
  have hlt : m.fill.toNat < 64 := by omega
  obtain ⟨ht', -⟩ := md5Absorb_settled x ⟨ht, hlt⟩
  refine ⟨?_, ?_, ht'⟩
  · rw [md5Absorb_mlen, hmlen, BitVec.ofNat_add]
    rfl
  · rw [md5Absorb_fill x hlt, hfill, Nat.mod_add_mod]

theorem Md5Core.Counts.foldl_md5Absorb (bs : List Byte) {m : Md5Core} {n : Nat} (h : m.Counts n) :
    (bs.foldl Machine.md5Absorb m).Counts (n + bs.length) := by
  induction bs generalizing m n with
  | nil => exact h
  | cons x bs ih =>
    rw [List.length_cons, Nat.add_comm bs.length, ← Nat.add_assoc]
    exact ih (h.md5Absorb x)

/-- Settles O48, by induction on the string: each byte counts once in MLEN and once in FILL. -/
theorem absorbCountsItsBytes : Obligations.AbsorbCountsItsBytes := by
  intro m bs
  have h := (md5Init_counts m).foldl_md5Absorb bs
  rwa [Nat.zero_add] at h

/-! ### Block buffers that agree on their first bytes -/

/-- The first `k` bytes of two block buffers are the same. -/
def AgreeBelow (k : Nat) (b b' : Vector Byte 64) : Prop := ∀ i (hi : i < 64), i < k → b[i] = b'[i]

theorem AgreeBelow.eq {b b' : Vector Byte 64} (h : AgreeBelow 64 b b') : b = b' :=
  Vector.ext fun i hi => h i hi hi

/-- Storing the same next byte extends the agreement. -/
theorem AgreeBelow.set {k : Nat} {b b' : Vector Byte 64} (h : AgreeBelow k b b') (x : Byte) :
    AgreeBelow (k + 1) (b.setIfInBounds k x) (b'.setIfInBounds k x) := by
  intro i hi hk
  rw [Vector.getElem_setIfInBounds hi, Vector.getElem_setIfInBounds hi]
  split
  · rfl
  · exact h i hi (by omega)

theorem AgreeBelow.foldl_set {k : Nat} {b b' : Vector Byte 64} (h : AgreeBelow k b b') (x : Nat → Byte) (n : Nat) :
    AgreeBelow (k + n) ((List.range n).foldl (fun b j => b.setIfInBounds (k + j) (x j)) b)
      ((List.range n).foldl (fun b j => b.setIfInBounds (k + j) (x j)) b') := by
  induction n with
  | zero => exact h
  | succ n ih =>
    simp only [List.range_succ, List.foldl_append]
    exact ih.set (x n)

/-! ### Cores that differ in the unused part of the block only -/

/-- Two cores are the same but for the bytes of BLK that FILL does not count. -/
def Md5Core.SameUpToFill (m m' : Md5Core) : Prop :=
  ∃ b, m' = { m with blk := b } ∧ AgreeBelow m.fill.toNat m.blk b

section SameUpToFill

variable {m m' : Md5Core}

theorem Md5Core.SameUpToFill.refl (m : Md5Core) : m.SameUpToFill m := ⟨m.blk, rfl, fun _ _ _ => rfl⟩

/-- 42_md5_core.md R180: after MD5_INIT no byte of the block is in use, and every other register has its fixed value. -/
theorem Md5Core.SameUpToFill.md5Init (m m' : Md5Core) : (md5Init m).SameUpToFill (md5Init m') :=
  ⟨m'.blk, rfl, fun _ _ hi => absurd hi (Nat.not_lt_zero _)⟩

/-- With a full block nothing is left to differ. -/
theorem Md5Core.SameUpToFill.eq_of_full (h : m.SameUpToFill m') (hfull : m.fill = 64) : m = m' := by
  obtain ⟨b, rfl, hb⟩ := h
  rw [hfull] at hb
  rw [← AgreeBelow.eq hb]

theorem Md5Core.SameUpToFill.fill_eq (h : m.SameUpToFill m') : m'.fill = m.fill := by
  obtain ⟨b, rfl, -⟩ := h
  rfl

theorem Md5Core.SameUpToFill.putByte (h : m.SameUpToFill m') (x : Byte) :
    (m.putByte x).SameUpToFill (m'.putByte x) := by
  obtain ⟨b, rfl, hb⟩ := h
  refine ⟨b.setIfInBounds m.fill.toNat x, rfl, fun i hi hlt => hb.set x i hi ?_⟩
  have hlt : i < (m.fill + 1).toNat := hlt
  bv_omega

theorem Md5Core.SameUpToFill.compressIfFull (h : m.SameUpToFill m') :
    m.compressIfFull.SameUpToFill m'.compressIfFull := by
  unfold Md5Core.compressIfFull
  rw [h.fill_eq]
  split
  · rename_i hfull
    rw [h.eq_of_full hfull]
    exact .refl _
  · exact h

theorem Md5Core.SameUpToFill.md5Absorb (h : m.SameUpToFill m') (x : Byte) :
    (md5Absorb m x).SameUpToFill (md5Absorb m' x) := by
  obtain ⟨b, rfl, hb⟩ := h
  have hcounted : ({ m with mlen := m.mlen + 1 } : Md5Core).SameUpToFill { m with blk := b, mlen := m.mlen + 1 } :=
    ⟨b, rfl, hb⟩
  exact (hcounted.putByte x).compressIfFull

theorem Md5Core.SameUpToFill.foldl_md5Absorb (bs : List Byte) (h : m.SameUpToFill m') :
    (bs.foldl Machine.md5Absorb m).SameUpToFill (bs.foldl Machine.md5Absorb m') := by
  induction bs generalizing m m' with
  | nil => exact h
  | cons x bs ih => exact ih (h.md5Absorb x)

/-! ### Padding -/

theorem Md5Core.putZeros_fill (n : Nat) (m : Md5Core) : (m.putZeros n).fill = m.fill + BitVec.ofNat 7 n := by
  induction n generalizing m with
  | zero => simp [Md5Core.putZeros]
  | succ n ih =>
    rw [Md5Core.putZeros, ih, Nat.add_comm, BitVec.ofNat_add, ← BitVec.add_assoc]
    rfl

theorem Md5Core.SameUpToFill.putZeros (n : Nat) (h : m.SameUpToFill m') :
    (m.putZeros n).SameUpToFill (m'.putZeros n) := by
  induction n generalizing m m' with
  | zero => exact h
  | succ n ih => exact ih (h.putByte 0)

/-- 42_md5_core.md R183: the zero fill leaves room for the eight bytes of the length. -/
theorem Md5Core.zeroFill_fill (m : Md5Core) : m.zeroFill.fill = 56 := by
  unfold Md5Core.zeroFill
  split
  · rw [Md5Core.putZeros_fill, md5Compress_fill]
    rfl
  · rw [Md5Core.putZeros_fill]
    bv_omega

theorem Md5Core.SameUpToFill.zeroFill (h : m.SameUpToFill m') (hfill : m.fill.toNat ≤ 64) :
    m.zeroFill.SameUpToFill m'.zeroFill := by
  unfold Md5Core.zeroFill
  rw [h.fill_eq]
  split
  · have hfull : (m.putZeros (64 - m.fill.toNat)).fill = 64 := by
      rw [Md5Core.putZeros_fill]
      bv_omega
    rw [(h.putZeros _).eq_of_full hfull]
    exact .refl _
  · show (m.putZeros (56 - m.fill.toNat)).SameUpToFill (m'.putZeros (56 - m'.fill.toNat))
    rw [h.fill_eq]
    exact h.putZeros _

/-- 42_md5_core.md R184: after the zero fill the length overwrites the rest of the block. -/
theorem Md5Core.SameUpToFill.putLength (h : m.SameUpToFill m') (hfill : m.fill = 56) (l : BitVec 64) :
    m.putLength l = m'.putLength l := by
  obtain ⟨b, rfl, hb⟩ := h
  rw [hfill] at hb
  have hblk := (AgreeBelow.foldl_set hb (fun j => l.extractLsb' (8 * j) 8) 8).eq
  exact congrArg (fun blk => { m with blk := blk }) hblk

theorem Md5Core.compressIfFull_fill_le (h : m.fill.toNat ≤ 64) : m.compressIfFull.fill.toNat ≤ 64 := by
  unfold Md5Core.compressIfFull
  split
  · simp
  · exact h

theorem Md5Core.SameUpToFill.md5Final (h : m.SameUpToFill m') (hfill : m.fill.toNat < 64) :
    md5Final m = md5Final m' := by
  have hpad : (m.putByte 0x80).fill.toNat ≤ 64 := by
    show (m.fill + 1).toNat ≤ 64
    bv_omega
  have hzero := ((h.putByte 0x80).compressIfFull).zeroFill (Md5Core.compressIfFull_fill_le hpad)
  have hlen : m.bitLength = m'.bitLength := by
    obtain ⟨b, rfl, -⟩ := h
    rfl
  unfold Machine.md5Final
  rw [hlen, hzero.putLength (Md5Core.zeroFill_fill _)]

end SameUpToFill

/-- Settles O47: MD5_INIT leaves a difference only in bytes of BLK that are not in use, absorbing keeps it there, and
the padding overwrites it. -/
theorem md5ForgetsEarlierDigests : Obligations.Md5ForgetsEarlierDigests := by
  intro m bs
  obtain ⟨-, hfill, -⟩ := absorbCountsItsBytes m bs
  have hsame := (Md5Core.SameUpToFill.md5Init m .zero).foldl_md5Absorb bs
  exact hsame.md5Final (by omega)

end Sys2Proof.Machine
end

section
/-! PROOF. The streams as byte strings (43_crypt_sequencer.md R200 to R207): what they hold, and how long they are. -/

namespace Sys2Proof.Machine

open Sys2Proof

/-! ### The padding that encodes the length -/

/-- The loop of R205 writes one byte for each bit. -/
theorem lengthBits_eq_map_bits (first : Byte) (bound : Nat) :
    ∀ m ≤ bound, lengthBits first bound m = m.bits.map (fun b => if b then 0x00 else first) := by
  induction bound with
  | zero =>
    intro m hm
    obtain rfl : m = 0 := by omega
    simp [lengthBits]
  | succ bound ih =>
    intro m hm
    obtain ⟨k, rfl | rfl⟩ := m.even_or_odd'
    · rcases eq_or_ne k 0 with rfl | hk
      · simp [lengthBits]
      · simp [lengthBits, hk, ih k (by omega), Nat.bit0_bits k hk]
    · have hhalf : (2 * k + 1) / 2 = k := by omega
      simp [lengthBits, hhalf, ih k (by omega)]

theorem lenBits_eq_map_bits (pw : List Byte) :
    lenBits pw = pw.length.bits.map (fun b => if b then 0x00 else pw.getD 0 0) :=
  lengthBits_eq_map_bits _ _ _ le_rfl

@[simp] theorem lenBits_length (pw : List Byte) : (lenBits pw).length = pw.length.size := by
  rw [lenBits_eq_map_bits, List.length_map, Nat.size_eq_bits_len]

theorem bits_getElem?_of_lt_size {n i : Nat} (h : i < n.size) : n.bits[i]? = some (n.testBit i) := by
  have hlen : i < n.bits.length := by rwa [Nat.size_eq_bits_len]
  rw [Nat.testBit_eq_inth, List.getI_eq_getElem _ hlen, List.getElem?_eq_getElem hlen]

/-- Settles O46: LENBITS is the list of the length's bits, byte by byte. -/
theorem lengthBitsEncodeTheLength : Obligations.LengthBitsEncodeTheLength := by
  refine fun pw => ⟨lenBits_length pw, fun i hi => ?_⟩
  rw [lenBits_eq_map_bits, List.getElem?_map, bits_getElem?_of_lt_size hi, Option.map_some]

/-! ### The strings of the streams -/

@[simp] theorem Sources.stream_nil (src : Sources) : src.stream [] = [] := rfl

@[simp] theorem Sources.stream_cons (src : Sources) (g : Segment) (gs : List Segment) :
    src.stream (g :: gs) = src.segment g ++ src.stream gs := rfl

@[simp] theorem Sources.stream_append (src : Sources) (gs gs' : List Segment) :
    src.stream (gs ++ gs') = src.stream gs ++ src.stream gs' := List.flatMap_append

section Strings

variable (pw salt : List Byte) (alt d : Digest)

theorem stream_alt (p : SeqPos) (h : p.phase = .alt) :
    (Sources.mk pw salt alt d).stream p.segments = pw ++ salt ++ pw := by
  simp [SeqPos.segments, h, Sources.segment]

theorem stream_seed (p : SeqPos) (h : p.phase = .seed) :
    (Sources.mk pw salt alt d).stream p.segments = seedBytes pw salt alt := by
  simp [SeqPos.segments, h, Sources.segment, seedBytes]

theorem stream_round (i : Nat) : (Sources.mk pw salt alt d).stream (roundSegments i) = roundBytes pw salt i d := by
  unfold roundSegments roundBytes
  split_ifs <;> simp [Sources.segment]

end Strings

/-- Settles O44: segment by segment, the streams are the strings of the reference computation. -/
theorem streamsAreTheStrings : Obligations.StreamsAreTheStrings := fun pw salt alt d i =>
  ⟨stream_alt pw salt alt d _ rfl, stream_seed pw salt alt d _ rfl, stream_round pw salt alt d i⟩

/-! ### The lengths of the streams -/

@[simp] theorem altCycle_length (alt : Digest) (n : Nat) : (altCycle alt n).length = n := by simp [altCycle]

@[simp] theorem magicRom_length : magicRom.length = 3 := rfl

@[simp] theorem State.password_length (s : State) : s.password.length = s.pwLen.toNat := by simp [State.password]

theorem seedBytes_length (pw salt : List Byte) (alt : Digest) :
    (seedBytes pw salt alt).length = 2 * pw.length + 3 + salt.length + pw.length.size := by
  simp only [seedBytes, List.length_append, magicRom_length, altCycle_length, lenBits_length]
  omega

/-- The length of a round's string (R216). -/
theorem roundBytes_length (pw salt : List Byte) (i : Nat) (d : Digest) :
    (roundBytes pw salt i d).length =
      16 + pw.length + (if i % 3 ≠ 0 then salt.length else 0) + (if i % 7 ≠ 0 then pw.length else 0) := by
  simp only [roundBytes, List.length_append, apply_ite List.length, Vector.length_toList, List.length_nil]
  split_ifs <;> omega

/-- LENBITS of a password the engine holds has at most 16 bytes (R218). -/
theorem State.pwLen_size_le (s : State) : s.pwLen.toNat.size ≤ 16 := Nat.size_le.2 s.pwLen.isLt

/-- Settles O45: besides the inputs, the seed has the magic and at most 16 bytes for the bits of the length, a round
the 16 bytes of the digest, and the other streams nothing. -/
theorem streamLengthIsBounded : Obligations.StreamLengthIsBounded := by
  rintro s ⟨-, hpw, hsalt, -, -⟩
  have hsize := s.pwLen_size_le
  cases hphase : s.seq.phase with
  | idle => simp [SeqPos.segments, hphase]
  | encode => simp [SeqPos.segments, hphase]
  | raw =>
    have hlen : (s.sources.stream s.seq.segments).length = s.pwLen.toNat := by
      simp [SeqPos.segments, hphase, State.sources, Sources.segment]
    omega
  | alt =>
    rw [State.sources, stream_alt _ _ _ _ _ hphase]
    simp only [List.length_append, State.password_length, State.salt_length]
    omega
  | seed =>
    rw [State.sources, stream_seed _ _ _ _ _ hphase, seedBytes_length, State.password_length, State.salt_length]
    omega
  | round =>
    have hsegs : s.seq.segments = roundSegments s.seq.ridx.toNat := by simp [SeqPos.segments, hphase]
    rw [State.sources, hsegs, stream_round, roundBytes_length, State.password_length, State.salt_length]
    split_ifs <;> omega

end Sys2Proof.Machine
end

section
/-! PROOF. The sequencer's own steps compute the digests of the whole strings (43_crypt_sequencer.md R200, R209, R211):
a segment, a stream, a phase, all rounds. -/

namespace Sys2Proof.Machine

open Sys2Proof

/-! ### Runs of the sequencer's own steps -/

/-- Some number of the sequencer's own steps leads from `s` to `t`. -/
def State.WorksTo (s t : State) : Prop := ∃ k : Nat, State.work^[k] s = t

theorem State.WorksTo.refl (s : State) : s.WorksTo s := ⟨0, rfl⟩

theorem State.WorksTo.trans {s t u : State} (h : s.WorksTo t) (h' : t.WorksTo u) : s.WorksTo u := by
  obtain ⟨k, rfl⟩ := h
  obtain ⟨k', rfl⟩ := h'
  exact ⟨k' + k, Function.iterate_add_apply _ _ _ _⟩

theorem State.worksTo_work (s : State) : s.WorksTo s.work := ⟨1, rfl⟩

/-! ### One step -/

/-- The phases that hash a stream. -/
def Phase.hashes : Phase → Bool
  | .idle | .encode => false
  | .alt | .seed | .round | .raw => true

theorem State.work_of_hashes {s : State} (hb : s.status.busy = true) (hp : s.seq.phase.hashes = true) :
    s.work = s.initStream.streamStep := by
  unfold State.work
  rw [if_pos hb]
  cases hphase : s.seq.phase with
  | idle | encode => simp [hphase, Phase.hashes] at hp
  | alt | seed | round | raw => rfl

theorem State.streamStep_of_byte {s : State} {g : Segment} {x : Byte} (hg : s.seq.segments[s.seq.seg]? = some g)
    (hx : (s.sources.segment g)[s.seq.pos.toNat]? = some x) :
    s.streamStep = { s with core := md5Absorb s.core x, seq := { s.seq with pos := s.seq.pos + 1 } } := by
  simp [State.streamStep, hg, hx]

theorem State.streamStep_of_segment_end {s : State} {g : Segment} (hg : s.seq.segments[s.seq.seg]? = some g)
    (hend : (s.sources.segment g)[s.seq.pos.toNat]? = none) :
    s.streamStep = { s with seq := { s.seq with seg := s.seq.seg + 1, pos := 0 } } := by
  simp [State.streamStep, hg, hend]

theorem State.streamStep_of_stream_end {s : State} (hend : s.seq.segments[s.seq.seg]? = none) :
    s.streamStep = s.endStream := by
  simp [State.streamStep, hend]

/-! ### What is left of a list -/

theorem head_and_tail_of_drop {α : Type} {l xs : List α} {n : Nat} {x : α} (h : l.drop n = x :: xs) :
    l[n]? = some x ∧ l.drop (n + 1) = xs := by
  refine ⟨?_, by rw [← List.tail_drop, h, List.tail_cons]⟩
  rw [← List.head?_drop, h, List.head?_cons]

/-! ### What a step writes -/

/-- The state with the MD5 core, the digest registers and the position replaced, which is all that the sequencer's
steps write. -/
def State.withDatapath (s : State) (core : Md5Core) (alt dig : Digest) (seq : SeqPos) : State :=
  { s with core := core, altReg := alt, digReg := dig, seq := seq }

/-- The core a step works on: a stream starts with MD5_INIT (R200). -/
def SeqPos.coreAtStart (q : SeqPos) (core : Md5Core) : Md5Core :=
  if q.seg = 0 ∧ q.pos = 0 then md5Init core else core

theorem SeqPos.coreAtStart_of_seg_ne {q : SeqPos} (h : q.seg ≠ 0) (c : Md5Core) : q.coreAtStart c = c :=
  if_neg fun hq => h hq.1

theorem SeqPos.coreAtStart_of_pos_ne {q : SeqPos} (h : q.pos ≠ 0) (c : Md5Core) : q.coreAtStart c = c :=
  if_neg fun hq => h hq.2

/-- No source has more than 65535 bytes, so POS does not wrap within a segment. -/
theorem State.segment_length_lt (s : State) (alt dig : Digest) (g : Segment) :
    ((Sources.mk s.password s.salt alt dig).segment g).length < 65536 := by
  have hpw := s.pwLen.isLt
  cases g with
  | lenbits =>
    have hsize := s.pwLen_size_le
    simp only [Sources.segment, lenBits_length, State.password_length]
    omega
  | salt => simpa [Sources.segment] using s.saltLen.isLt
  | pw | altcyc => simpa [Sources.segment] using hpw
  | magic | dig => simp [Sources.segment]

section EndOfStream

variable (s : State) (m : Md5Core) (alt dig : Digest) (r : BitVec 10) (i : Nat)

theorem State.withDatapath_endStream_alt :
    (s.withDatapath m alt dig ⟨.alt, r, i, 0⟩).endStream =
      s.withDatapath (md5Final m) (md5Final m).digest dig ⟨.seed, 0, 0, 0⟩ := rfl

theorem State.withDatapath_endStream_seed :
    (s.withDatapath m alt dig ⟨.seed, r, i, 0⟩).endStream =
      s.withDatapath (md5Final m) alt (md5Final m).digest ⟨.round, 0, 0, 0⟩ := rfl

theorem State.withDatapath_endStream_round :
    (s.withDatapath m alt dig ⟨.round, r, i, 0⟩).endStream =
      s.withDatapath (md5Final m) alt (md5Final m).digest
        (if r.toNat < 999 then ⟨.round, r + 1, 0, 0⟩ else ⟨.encode, r, 0, 0⟩) := rfl

end EndOfStream

section Streams

variable {s : State} (hb : s.status.busy = true) {alt dig : Digest}
include hb

theorem State.withDatapath_work {q : SeqPos} (hq : q.phase.hashes = true) (c : Md5Core) :
    (s.withDatapath c alt dig q).work = (s.withDatapath (q.coreAtStart c) alt dig q).streamStep := by
  have hwork : (s.withDatapath c alt dig q).work = (s.withDatapath c alt dig q).initStream.streamStep :=
    State.work_of_hashes hb hq
  rw [hwork, State.initStream_eq]
  rfl

theorem State.withDatapath_work_of_byte {q : SeqPos} {g : Segment} {x : Byte} (hq : q.phase.hashes = true)
    (hg : q.segments[q.seg]? = some g)
    (hx : ((Sources.mk s.password s.salt alt dig).segment g)[q.pos.toNat]? = some x) (c : Md5Core) :
    (s.withDatapath c alt dig q).work =
      s.withDatapath (md5Absorb (q.coreAtStart c) x) alt dig { q with pos := q.pos + 1 } :=
  (State.withDatapath_work hb hq c).trans (State.streamStep_of_byte (s := s.withDatapath _ alt dig q) hg hx)

theorem State.withDatapath_work_of_segment_end {q : SeqPos} {g : Segment} (hq : q.phase.hashes = true)
    (hg : q.segments[q.seg]? = some g)
    (hend : ((Sources.mk s.password s.salt alt dig).segment g).drop q.pos.toNat = []) (c : Md5Core) :
    (s.withDatapath c alt dig q).work =
      s.withDatapath (q.coreAtStart c) alt dig { q with seg := q.seg + 1, pos := 0 } :=
  (State.withDatapath_work hb hq c).trans (State.streamStep_of_segment_end (s := s.withDatapath _ alt dig q) hg
    (List.getElem?_eq_none (List.drop_eq_nil_iff.1 hend)))

theorem State.withDatapath_work_of_stream_end {q : SeqPos} (hq : q.phase.hashes = true)
    (hend : q.segments.drop q.seg = []) (c : Md5Core) :
    (s.withDatapath c alt dig q).work = (s.withDatapath (q.coreAtStart c) alt dig q).endStream :=
  (State.withDatapath_work hb hq c).trans (State.streamStep_of_stream_end (s := s.withDatapath _ alt dig q)
    (List.getElem?_eq_none (List.drop_eq_nil_iff.1 hend)))

/-! ### A segment, a stream -/

/-- The sequencer absorbs the rest of a segment, byte by byte, and goes on to the next segment. -/
theorem State.worksTo_nextSegment {g : Segment} (bs : List Byte) :
    ∀ {q : SeqPos} (c : Md5Core), q.phase.hashes = true → q.segments[q.seg]? = some g →
      ((Sources.mk s.password s.salt alt dig).segment g).drop q.pos.toNat = bs →
      (s.withDatapath c alt dig q).WorksTo
        (s.withDatapath (bs.foldl md5Absorb (q.coreAtStart c)) alt dig { q with seg := q.seg + 1, pos := 0 }) := by
  induction bs with
  | nil =>
    intro q c hq hg hbs
    have hstep := (s.withDatapath c alt dig q).worksTo_work
    rwa [State.withDatapath_work_of_segment_end hb hq hg hbs] at hstep
  | cons x xs ih =>
    intro q c hq hg hbs
    obtain ⟨hx, hxs⟩ := head_and_tail_of_drop hbs
    obtain ⟨hlt, -⟩ := List.getElem?_eq_some_iff.1 hx
    have hlen := s.segment_length_lt alt dig g
    have hpos : (q.pos + 1).toNat = q.pos.toNat + 1 := by bv_omega
    have hrest := ih (q := { q with pos := q.pos + 1 }) (md5Absorb (q.coreAtStart c) x) hq hg (hpos ▸ hxs)
    have hne : q.pos + 1 ≠ 0 := by bv_omega
    rw [SeqPos.coreAtStart_of_pos_ne (q := { q with pos := q.pos + 1 }) hne] at hrest
    have hstep := (s.withDatapath c alt dig q).worksTo_work
    rw [State.withDatapath_work_of_byte hb hq hg hx] at hstep
    exact hstep.trans hrest

/-- The sequencer absorbs the rest of a stream, segment by segment, and ends the stream. -/
theorem State.worksTo_endStream (gs : List Segment) :
    ∀ {q : SeqPos} (c : Md5Core), q.phase.hashes = true → q.pos = 0 → q.segments.drop q.seg = gs →
      ∃ i, (s.withDatapath c alt dig q).WorksTo
        (s.withDatapath (((Sources.mk s.password s.salt alt dig).stream gs).foldl md5Absorb (q.coreAtStart c)) alt dig
          { q with seg := i, pos := 0 }).endStream := by
  induction gs with
  | nil =>
    intro q c hq hpos hgs
    have hstep := (s.withDatapath c alt dig q).worksTo_work
    rw [State.withDatapath_work_of_stream_end hb hq hgs] at hstep
    exact ⟨q.seg, hpos ▸ hstep⟩
  | cons g gs ih =>
    intro q c hq hpos hgs
    obtain ⟨hg, hrest⟩ := head_and_tail_of_drop hgs
    have hseg := State.worksTo_nextSegment hb ((Sources.mk s.password s.salt alt dig).segment g) c hq hg
      (by rw [hpos]; rfl)
    obtain ⟨i, hend⟩ := ih (q := { q with seg := q.seg + 1, pos := 0 })
      (((Sources.mk s.password s.salt alt dig).segment g).foldl md5Absorb (q.coreAtStart c)) hq rfl hrest
    have hne : q.seg + 1 ≠ 0 := Nat.succ_ne_zero _
    rw [SeqPos.coreAtStart_of_seg_ne (q := { q with seg := q.seg + 1, pos := 0 }) hne, ← List.foldl_append] at hend
    exact ⟨i, hseg.trans hend⟩

/-! ### A phase, all rounds -/

/-- A whole stream, from the first step of its phase: what the core holds as the stream ends is the digest of the
stream's string, whatever it held before (R200, R211). -/
theorem State.worksTo_hashed {p : Phase} (hp : p.hashes = true) (r : BitVec 10) (c : Md5Core) :
    ∃ i m, md5Final m = md5Run .zero ((Sources.mk s.password s.salt alt dig).stream (SeqPos.mk p r 0 0).segments) ∧
      (s.withDatapath c alt dig ⟨p, r, 0, 0⟩).WorksTo (s.withDatapath m alt dig ⟨p, r, i, 0⟩).endStream := by
  obtain ⟨i, hend⟩ := State.worksTo_endStream hb (alt := alt) (dig := dig) _ (q := ⟨p, r, 0, 0⟩) c hp rfl rfl
  exact ⟨i, _, md5ForgetsEarlierDigests c _, hend⟩

/-- Phase ALT (R201). -/
theorem State.worksTo_seed (c : Md5Core) : ∃ c',
    (s.withDatapath c alt dig ⟨.alt, 0, 0, 0⟩).WorksTo
      (s.withDatapath c' (altDigest s.password s.salt) dig ⟨.seed, 0, 0, 0⟩) := by
  obtain ⟨i, m, hm, hend⟩ := State.worksTo_hashed hb (alt := alt) (dig := dig) (p := .alt) rfl 0 c
  rw [stream_alt _ _ _ _ _ rfl] at hm
  rw [State.withDatapath_endStream_alt, hm] at hend
  exact ⟨_, hend⟩

/-- Phase SEED (R203, R206). -/
theorem State.worksTo_round (c : Md5Core) : ∃ c',
    (s.withDatapath c (altDigest s.password s.salt) dig ⟨.seed, 0, 0, 0⟩).WorksTo
      (s.withDatapath c' (altDigest s.password s.salt) (mixedDigest s.password s.salt 0) ⟨.round, 0, 0, 0⟩) := by
  obtain ⟨i, m, hm, hend⟩ :=
    State.worksTo_hashed hb (alt := altDigest s.password s.salt) (dig := dig) (p := .seed) rfl 0 c
  rw [stream_seed _ _ _ _ _ rfl] at hm
  rw [State.withDatapath_endStream_seed, hm] at hend
  exact ⟨_, hend⟩

/-- The MD5 core as round `k` leaves it. -/
def roundCore (pw salt : List Byte) (k : Nat) : Md5Core := md5Run .zero (roundBytes pw salt k (mixedDigest pw salt k))

/-- One round, with the position its end leads to (R209). -/
theorem State.worksTo_round_end {k : Nat} (hk : k < 1000) (c : Md5Core) :
    (s.withDatapath c alt (mixedDigest s.password s.salt k) ⟨.round, BitVec.ofNat 10 k, 0, 0⟩).WorksTo
      (s.withDatapath (roundCore s.password s.salt k) alt (mixedDigest s.password s.salt (k + 1))
        (if k < 999 then ⟨.round, BitVec.ofNat 10 (k + 1), 0, 0⟩ else ⟨.encode, BitVec.ofNat 10 k, 0, 0⟩)) := by
  obtain ⟨i, m, hm, hend⟩ := State.worksTo_hashed hb (alt := alt) (dig := mixedDigest s.password s.salt k)
    (p := .round) rfl (BitVec.ofNat 10 k) c
  have hridx : (BitVec.ofNat 10 k).toNat = k := Nat.mod_eq_of_lt (by omega)
  have hsegs : (SeqPos.mk .round (BitVec.ofNat 10 k) 0 0).segments = roundSegments k := congrArg roundSegments hridx
  rw [hsegs, stream_round] at hm
  rw [State.withDatapath_endStream_round, hm, hridx] at hend
  rw [BitVec.ofNat_add]
  exact hend

/-- The rounds before round `k`, one after the other (R209). -/
theorem State.worksTo_rounds (c : Md5Core) (k : Nat) (hk : k < 1000) : ∃ c',
    (s.withDatapath c alt (mixedDigest s.password s.salt 0) ⟨.round, 0, 0, 0⟩).WorksTo
      (s.withDatapath c' alt (mixedDigest s.password s.salt k) ⟨.round, BitVec.ofNat 10 k, 0, 0⟩) := by
  induction k with
  | zero => exact ⟨c, .refl _⟩
  | succ k ih =>
    obtain ⟨c', hrounds⟩ := ih (by omega)
    have hround := State.worksTo_round_end hb (alt := alt) (k := k) (by omega) c'
    rw [if_pos (by omega)] at hround
    exact ⟨_, hrounds.trans hround⟩

/-- From the start of CRYPT to ENCODE (R209). -/
theorem State.worksTo_encode (c : Md5Core) :
    (s.withDatapath c alt dig ⟨.alt, 0, 0, 0⟩).WorksTo
      (s.withDatapath (finalCore s.password s.salt) (altDigest s.password s.salt) (finalDigest s.password s.salt)
        ⟨.encode, 999, 0, 0⟩) := by
  obtain ⟨c₁, hseed⟩ := State.worksTo_seed hb (alt := alt) (dig := dig) c
  obtain ⟨c₂, hround⟩ := State.worksTo_round hb (dig := dig) c₁
  obtain ⟨c₃, hrounds⟩ := State.worksTo_rounds hb (alt := altDigest s.password s.salt) c₂ 999 (by omega)
  have hlast := State.worksTo_round_end hb (alt := altDigest s.password s.salt) (k := 999) (by omega) c₃
  rw [if_neg (by omega)] at hlast
  exact ((hseed.trans hround).trans hrounds).trans hlast

end Streams

/-- Settles O43: the phases one after the other, each of which hashes its stream. -/
theorem sequencerComputesFinalDigest : Obligations.SequencerComputesFinalDigest := by
  intro s hb hseq
  have hs : s = s.withDatapath s.core s.altReg s.digReg ⟨.alt, 0, 0, 0⟩ := by rw [← hseq]; rfl
  obtain ⟨k, hk⟩ := State.worksTo_encode hb (alt := s.altReg) (dig := s.digReg) s.core
  rw [← hs] at hk
  exact ⟨k, by rw [hk]; exact ⟨rfl, rfl, rfl, rfl⟩⟩

end Sys2Proof.Machine
end

section
/-! PROOF. The digest permutation encoder (44_encoder.md R230 to R247): the groups are the base-64 digits of the
permuted digest as a number, so a body is text of the alphabet and keeps every bit, and it stands in the result buffer
after the magic, the salt and the separator. -/

namespace Sys2Proof.Machine

open Sys2Proof

/-! ### A byte string as a big-endian number -/

/-- The number a byte string spells, its first byte the most significant (R236). -/
def bigEndianNumber (bs : List Byte) : Nat := bs.foldl (fun n b => n * 256 + b.toNat) 0

theorem bigEndianNumber_concat (bs : List Byte) (x : Byte) :
    bigEndianNumber (bs ++ [x]) = 2 ^ 8 * bigEndianNumber bs + x.toNat := by
  simp [bigEndianNumber, Nat.mul_comm]

/-- The bytes, last first, are the digits in base 256. -/
theorem bigEndianNumber_eq_ofDigits (bs : List Byte) :
    bigEndianNumber bs = Nat.ofDigits 256 (bs.reverse.map BitVec.toNat) := by
  rw [Nat.ofDigits_eq_foldr, List.foldr_map, List.foldr_reverse]
  simp only [bigEndianNumber, Nat.mul_comm, Nat.add_comm, Nat.cast_id]

theorem toNat_digits_lt (bs : List Byte) : ∀ d ∈ bs.reverse.map BitVec.toNat, d < 256 := by
  intro d hd
  obtain ⟨x, -, rfl⟩ := List.mem_map.1 hd
  exact x.isLt

theorem bigEndianNumber_lt (bs : List Byte) : bigEndianNumber bs < 256 ^ bs.length := by
  have h := Nat.ofDigits_lt_base_pow_length (by omega) (toNat_digits_lt bs)
  rwa [← bigEndianNumber_eq_ofDigits, List.length_map, List.length_reverse] at h

theorem bigEndianNumber_inj {bs cs : List Byte} (hlen : bs.length = cs.length)
    (h : bigEndianNumber bs = bigEndianNumber cs) : bs = cs := by
  rw [bigEndianNumber_eq_ofDigits, bigEndianNumber_eq_ofDigits] at h
  have hdigits := Nat.ofDigits_inj_of_len_eq (by omega) (by simpa using hlen) (toNat_digits_lt bs)
    (toNat_digits_lt cs) h
  exact List.reverse_injective (List.map_injective_iff.2 (fun _ _ => BitVec.eq_of_toNat_eq) hdigits)

/-! ### The serialized bits and their groups -/

theorem serialize_concat (bs : List Byte) (x : Byte) : serialize (bs ++ [x]) = byteBits x ++ serialize bs := by
  simp [serialize]

/-- SERIALIZE lists the bits of the number, the least significant first (R233). -/
theorem serialize_getD (bs : List Byte) : ∀ i, (serialize bs).getD i false = (bigEndianNumber bs).testBit i := by
  induction bs using List.reverseRecOn with
  | nil => intro i; simp [serialize, bigEndianNumber]
  | append_singleton bs x ih =>
    intro i
    have hlen : (byteBits x).length = 8 := by simp [byteBits]
    rw [serialize_concat, bigEndianNumber_concat, Nat.testBit_two_pow_mul_add _ x.isLt]
    split
    · next hi =>
      rw [List.getD_append _ _ _ _ (hlen ▸ hi), BitVec.testBit_toNat]
      simp [byteBits, hi]
    · rw [List.getD_append_right _ _ _ _ (by omega), hlen, ih]

/-- The low `n` bits of a number, weighted and added, are the number modulo `2 ^ n`. -/
theorem sum_weighted_bits (m n : Nat) :
    ((List.range n).map (fun t => if m.testBit t then 2 ^ t else 0)).sum = m % 2 ^ n := by
  induction n with
  | zero => simp [Nat.mod_one]
  | succ n ih =>
    rw [List.range_succ, List.map_append, List.sum_append, ih, List.map_singleton, List.sum_singleton, Nat.pow_succ,
      Nat.mod_mul, ← Nat.toNat_testBit]
    cases m.testBit n <;> simp

/-- Group `g` is digit `g` of the number in base `2 ^ 6` (R236). -/
theorem groupValue_serialize (bs : List Byte) (g : Nat) :
    groupValue (serialize bs) g = bigEndianNumber bs / 2 ^ (6 * g) % 2 ^ 6 := by
  rw [← sum_weighted_bits]
  simp only [groupValue, serialize_getD, Nat.testBit_div_two_pow, Nat.add_comm]

/-- Settles O49: the weighted bits of a group are a digit of the number. -/
theorem encoderClosedForm : Obligations.EncoderClosedForm := fun fd g _ => groupValue_serialize (permute fd) g

theorem groupValue_serialize_lt (bs : List Byte) (g : Nat) : groupValue (serialize bs) g < 64 := by
  rw [groupValue_serialize]
  exact Nat.mod_lt _ (by omega)

/-! ### The permuted digest -/

@[simp] theorem permute_length (fd : Digest) : (permute fd).length = 16 := by simp [permute, permRom]

/-- PERM_ROM names every byte of a digest, so PERMUTE keeps them all (R232). -/
theorem permute_inj {fd gd : Digest} (h : permute fd = permute gd) : fd = gd := by
  have hall : ∀ k < 16, k ∈ permRom := by decide
  have hbytes : (List.range 16).map (digestByte fd) = (List.range 16).map (digestByte gd) :=
    List.map_congr_left fun k hk => List.map_inj_left.1 h k (hall k (List.mem_range.1 hk))
  rw [map_digestByte_range, map_digestByte_range] at hbytes
  exact Vector.toList_inj.1 hbytes

/-- The permuted digest as a number (R236). -/
abbrev permutedNumber (fd : Digest) : Nat := bigEndianNumber (permute fd)

theorem permutedNumber_lt (fd : Digest) : permutedNumber fd < 2 ^ 128 := by
  have h := bigEndianNumber_lt (permute fd)
  rwa [permute_length, show 256 ^ 16 = 2 ^ 128 by norm_num] at h

/-- The last group has two bits only (R235). -/
theorem last_groupValue_lt (fd : Digest) : groupValue (serialize (permute fd)) 21 < 4 := by
  rw [groupValue_serialize]
  exact (Nat.mod_le _ _).trans_lt (Nat.div_lt_of_lt_mul (permutedNumber_lt fd))

/-! ### The alphabet and the body -/

theorem alphaRom_getD_mem {n : Nat} (h : n < 64) : alphaRom.getD n 0 ∈ alphaRom := by
  rw [List.getD_eq_getElem _ _ h]
  exact List.getElem_mem _

/-- ALPHA_ROM is injective (R240). -/
theorem alphaRom_getD_inj {m n : Nat} (hm : m < 64) (hn : n < 64) (h : alphaRom.getD m 0 = alphaRom.getD n 0) :
    m = n := by
  have hnodup : alphaRom.Nodup := by decide
  rw [List.getD_eq_getElem _ _ hm, List.getD_eq_getElem _ _ hn] at h
  exact hnodup.getElem_inj_iff.1 h

theorem encodeBody_getElem? (fd : Digest) {g : Nat} (h : g < 22) :
    (encodeBody fd)[g]? = some (alphaRom.getD (groupValue (serialize (permute fd)) g) 0) := by
  simp [encodeBody, h]

/-- Settles O50: every group selects a character of the alphabet, and the last one of the first four. -/
theorem encodedBodyIsAlphabetText : Obligations.EncodedBodyIsAlphabetText := by
  intro fd
  refine ⟨encodeBody_length fd, fun c hc => ?_, _, encodeBody_getElem? fd (by omega), ?_⟩
  · obtain ⟨g, -, rfl⟩ := List.mem_map.1 hc
    exact alphaRom_getD_mem (groupValue_serialize_lt _ g)
  · have hfirst : ∀ n < 4, alphaRom.getD n 0 ∈ ([0x2E, 0x2F, 0x30, 0x31] : List Byte) := by decide
    exact hfirst _ (last_groupValue_lt fd)

/-- Digits in base `2 ^ 6` determine a number, as far as they go. -/
theorem mod_eq_of_sextets_eq {m n : Nat} (k : Nat)
    (h : ∀ g < k, m / 2 ^ (6 * g) % 2 ^ 6 = n / 2 ^ (6 * g) % 2 ^ 6) : m % 2 ^ (6 * k) = n % 2 ^ (6 * k) := by
  induction k with
  | zero => simp [Nat.mod_one]
  | succ k ih =>
    rw [Nat.mul_succ, Nat.pow_add, Nat.mod_mul, Nat.mod_mul, ih fun g hg => h g (by omega), h k (by omega)]

/-- Settles O51: the body gives the groups, these the number, and the number the permuted digest. -/
theorem encodedBodyLosesNothing : Obligations.EncodedBodyLosesNothing := by
  intro fd gd h
  have hgroups : ∀ g < 22, groupValue (serialize (permute fd)) g = groupValue (serialize (permute gd)) g := by
    intro g hg
    have hchar := congrArg (·[g]?) h
    simp only [encodeBody_getElem? _ hg, Option.some.injEq] at hchar
    exact alphaRom_getD_inj (groupValue_serialize_lt _ g) (groupValue_serialize_lt _ g) hchar
  simp only [groupValue_serialize] at hgroups
  have hmod := mod_eq_of_sextets_eq 22 hgroups
  have hlt : ∀ d : Digest, permutedNumber d < 2 ^ (6 * 22) := fun d => (permutedNumber_lt d).trans (by norm_num)
  rw [Nat.mod_eq_of_lt (hlt fd), Nat.mod_eq_of_lt (hlt gd)] at hmod
  exact permute_inj (bigEndianNumber_inj (by simp) hmod)

/-! ### The result buffer -/

section ResultString

variable (salt : List Byte) (fd : Digest)

theorem encodedHash_getElem?_past_magic (i : Nat) :
    (encodedHash salt fd)[3 + i]? = (salt ++ separator :: encodeBody fd)[i]? := by
  have hstring : encodedHash salt fd = magicRom ++ (salt ++ separator :: encodeBody fd) := by simp [encodedHash]
  rw [hstring, List.getElem?_append_right (by simp), magicRom_length, Nat.add_sub_cancel_left]

theorem encodedHash_getElem?_salt {i : Nat} (h : i < salt.length) : (encodedHash salt fd)[3 + i]? = salt[i]? := by
  rw [encodedHash_getElem?_past_magic, List.getElem?_append_left h]

theorem encodedHash_getElem?_separator : (encodedHash salt fd)[3 + salt.length]? = some separator := by
  simp [encodedHash_getElem?_past_magic]

theorem encodedHash_getElem?_body (g : Nat) : (encodedHash salt fd)[4 + salt.length + g]? = (encodeBody fd)[g]? := by
  rw [show 4 + salt.length + g = 3 + (salt.length + (g + 1)) by omega, encodedHash_getElem?_past_magic]
  simp [List.getElem?_append_right]

end ResultString

/-- Settles O40: the string fits the buffer, so byte `i` of the buffer is byte `i` of the string, or 0 past its end. -/
theorem resultBufferLayout : Obligations.ResultBufferLayout := by
  intro salt fd hsalt
  have hlen := encodedHash_length salt fd
  have hread : ∀ i, (assemble (encodedHash salt fd)).read i = ((encodedHash salt fd)[i]?).getD 0 := fun i => by
    rw [assemble_eq_ofBytes (by omega), Memory.read_ofBytes, List.getD_eq_getElem?_getD]
  simp only [hread]
  refine ⟨hlen, rfl, rfl, rfl, fun i hi => ?_, ?_, fun g hg => ?_, fun i hi => ?_⟩
  · rw [encodedHash_getElem?_salt salt fd hi, List.getElem?_eq_getElem hi, Option.getD_some]
  · rw [encodedHash_getElem?_separator]
    rfl
  · rw [encodedHash_getElem?_body, encodeBody_getElem? fd hg, Option.getD_some]
  · rw [List.getElem?_eq_none (by omega), Option.getD_none]

end Sys2Proof.Machine
end

section
/-! PROOF. Recording an error (60_exceptions.md R270): the first one is kept, and an access that raises one does
nothing else (R274). -/

namespace Sys2Proof.Machine

open Sys2Proof

/-- Settles O22: the two branches of R270. -/
theorem raiseRecordsTheFirstError : Obligations.RaiseRecordsTheFirstError :=
  fun _ _ _ => ⟨fun herr => if_neg (by simp [herr]), fun herr => if_pos herr⟩

/-- No effect of an access replaces a record that stays. -/
theorem AccessEffect.keeps_record {s t : State} (he : AccessEffect s t) (hs : s.status.err = true)
    (ht : t.status.err = true) : t.errCode = s.errCode ∧ t.errInfo = s.errInfo := by
  cases he with
  | raise code info hc => simp [hs]
  | clearError | clearBoth | clearAll idle => cases ht
  | _ => exact ⟨rfl, rfl⟩

/-- Settles O23: of the effects of an access, raising an error keeps the record and every clearing of it clears ERR. -/
theorem firstErrorIsKept : Obligations.FirstErrorIsKept :=
  fun _ _ _ h hs ht => (AccessEffect.of_hostAccess h).keeps_record hs ht

/-! ### An access that raises an error does nothing else -/

/-- If an update leaves ERR set where no error is recorded, then with any record it raises that error and does nothing
else. -/
def RaisesOnly (update : State → State) : Prop :=
  ∀ s : State, (update s.clearError).status.err = true →
    update s = s.raiseError (update s.clearError).errCode (update s.clearError).errInfo

theorem raisesOnly_raiseError (code : ErrCode) (info : Word) : RaisesOnly (·.raiseError code info) := by
  intro s _
  simp

/-- An update that raises no error. -/
theorem RaisesOnly.of_silent {update : State → State} (h : ∀ s : State, (update s.clearError).status.err = false) :
    RaisesOnly update :=
  fun s herr => absurd ((h s).symm.trans herr) Bool.false_ne_true

/-- A choice between two updates that does not look at the record. -/
theorem RaisesOnly.ite {c : State → Prop} [DecidablePred c] {f g : State → State}
    (hc : ∀ s : State, c s.clearError ↔ c s) (hf : RaisesOnly f) (hg : RaisesOnly g) :
    RaisesOnly (fun s => if c s then f s else g s) := by
  intro s
  by_cases h : c s
  · simpa [hc, h] using hf s
  · simpa [hc, h] using hg s

/-- A push is refused while BUSY, then at a full buffer, and otherwise stores its byte. -/
theorem raisesOnly_wrPwPush (v : Word) : ∃ f, RaisesOnly f ∧ ∀ s, execWrPwPush v s = .next (f s) :=
  ⟨_, .ite (fun _ => .rfl) (raisesOnly_raiseError _ _)
    (.ite (fun _ => .rfl) (raisesOnly_raiseError _ _) (.of_silent fun _ => rfl)), fun _ => rfl⟩

theorem raisesOnly_wrSaltPush (v : Word) : ∃ f, RaisesOnly f ∧ ∀ s, execWrSaltPush v s = .next (f s) :=
  ⟨_, .ite (fun _ => .rfl) (raisesOnly_raiseError _ _)
    (.ite (fun _ => .rfl) (raisesOnly_raiseError _ _) (.of_silent fun _ => rfl)), fun _ => rfl⟩

theorem raisesOnly_unlessBusy (c : Word) {idle : State → State}
    (h : ∀ s : State, (idle s.clearError).status.err = false) : RaisesOnly (fun s => s.unlessBusy c (idle s)) :=
  .ite (fun _ => .rfl) (raisesOnly_raiseError _ _) (.of_silent h)

theorem raisesOnly_wrStatus (v : Word) : ∃ f, RaisesOnly f ∧ ∀ s, execWrStatus v s = .next (f s) := by
  refine ⟨_, .of_silent fun s => ?_, fun _ => rfl⟩
  cases clearsDone v <;> cases clearsErr v <;> rfl

theorem raisesOnly_crypt : ∃ f, RaisesOnly f ∧ ∀ s, execCrypt s = .next (f s) :=
  ⟨_, raisesOnly_unlessBusy 0x1 fun _ => rfl, fun _ => rfl⟩

theorem raisesOnly_md5 : ∃ f, RaisesOnly f ∧ ∀ s, execMd5 s = .next (f s) :=
  ⟨_, raisesOnly_unlessBusy 0x2 fun _ => rfl, fun _ => rfl⟩

theorem raisesOnly_clear : ∃ f, RaisesOnly f ∧ ∀ s, execClear s = .next (f s) :=
  ⟨_, raisesOnly_unlessBusy 0x3 fun _ => rfl, fun _ => rfl⟩

theorem raisesOnly_wrCmd (c : Word) : ∃ f, RaisesOnly f ∧ ∀ s, execWrCmd c s = .next (f s) := by
  by_cases hc : IllegalWord c
  · exact ⟨_, raisesOnly_raiseError .illegalCmd c, execWrCmd_illegal hc⟩
  · obtain rfl | rfl | rfl | rfl := legalWord_cases hc
    · exact ⟨_, .of_silent fun _ => rfl, fun _ => rfl⟩
    · exact raisesOnly_crypt
    · exact raisesOnly_md5
    · exact raisesOnly_clear

theorem raisesOnly_exec (i : Instr) : ∃ f, RaisesOnly f ∧ ∀ s, exec i s = .next (f s) := by
  cases i with
  | wrStatus v => exact raisesOnly_wrStatus v
  | wrCmd c => exact raisesOnly_wrCmd c
  | wrPwPush v => exact raisesOnly_wrPwPush v
  | wrSaltPush v => exact raisesOnly_wrSaltPush v
  | crypt => exact raisesOnly_crypt
  | md5 => exact raisesOnly_md5
  | clear => exact raisesOnly_clear
  | _ => exact ⟨_, .of_silent fun _ => rfl, fun _ => rfl⟩

theorem raisesOnly_execDefault (a : DefaultAccess) : ∃ f, RaisesOnly f ∧ ∀ s, execDefault a s = .next (f s) := by
  cases a <;> exact ⟨_, .of_silent fun _ => rfl, fun _ => rfl⟩

theorem raisesOnly_execBus (d : BusDecoded) : ∃ f, RaisesOnly f ∧ ∀ s, execBus d s = .next (f s) := by
  cases d with
  | row i => exact raisesOnly_exec i
  | unlisted a => exact raisesOnly_execDefault a

/-- Settles O24: every access that completes is an update that raises its error and does nothing else. -/
theorem errorsArePrecise : Obligations.ErrorsArePrecise := by
  rintro ⟨size, d, v⟩ s u h herr
  cases size with
  | byte | half => cases h
  | word =>
    obtain ⟨f, hraises, hf⟩ := raisesOnly_execBus (decodeBus d v)
    obtain rfl : f s.clearError = u := Host.Outcome.next.inj ((hf s.clearError).symm.trans h)
    rw [← State.raiseError_eq, ← hraises s herr]
    exact hf s

end Sys2Proof.Machine
end

section
/-! PROOF. What a running operation refuses (60_exceptions.md R263, R272): the pushes and the commands, and nothing
else. -/

namespace Sys2Proof.Machine

open Sys2Proof

/-! ### Refused accesses -/

/-- Settles O25: the legality of a command and BUSY are the first checks of their accesses. -/
theorem errorPriority : Obligations.ErrorPriority := by
  refine fun s v hbusy herr => ⟨fun hillegal => ⟨_, execWrCmd_illegal hillegal s, ?_⟩,
    fun _ => ⟨_, execWrPwPush_busy v hbusy, ?_⟩, fun _ => ⟨_, execWrSaltPush_busy v hbusy, ?_⟩⟩
  all_goals simp [herr]

/-- The commands CRYPT, MD5 and CLEAR while an operation runs. -/
theorem execWrCmd_busy {s : State} {c : Word} (hbusy : s.status.busy = true) (hc : 1 ≤ c.toNat ∧ c.toNat ≤ 3) :
    execWrCmd c s = .next (s.raiseError .busy (busyInfo c 0x0018)) := by
  obtain rfl | rfl | rfl | rfl := legalWord_cases (c := c) (by omega)
  · exact absurd hc (by decide)
  all_goals exact congrArg Host.Outcome.next (State.unlessBusy_of_busy hbusy _ _)

/-- The BUSY information as a number (60_exceptions.md R261). -/
theorem busyInfo_eq_ofNat (v : Word) (off : BitVec 16) :
    busyInfo v off = BitVec.ofNat 32 (v.toNat % 256 * 65536 + off.toNat) := by
  rw [← busyInfo_toNat, BitVec.ofNat_toNat, BitVec.setWidth_eq]

/-! ### Writes by their offset -/

/-- A write runs the row of its word: those with W = 1 look at OFF[8:2] only (30_encoding.md R85). -/
theorem hostAccess_write_row {pat : BitVec 10} {build : BitVec 10 → Word → Instr}
    (hrow : ⟨pat, 0x3FC, build⟩ ∈ busTable) {off : BitVec 9} (hoff : 512 + wordOf off = pat.toNat) (v : Word)
    (s : State) : hostAccess (access true off v) s = exec (build (BitVec.ofBool true ++ off) v) s := by
  have hmasked : (BitVec.ofBool true ++ off) &&& 0x3FC = pat := by
    rw [wordOf] at hoff
    apply BitVec.eq_of_toNat_eq
    rw [← hoff, and_wordMask, BitVec.toNat_shiftLeft, BitVec.toNat_ushiftRight, descriptor_toNat, Nat.shiftLeft_eq,
      Nat.shiftRight_eq_div_pow, if_pos rfl]
    omega
  exact congrArg (execBus · s) (decodeBus_of_selects hrow (beq_of_eq hmasked) v)

section WriteRows

variable {off : BitVec 9} (v : Word) (s : State)

theorem hostAccess_wrCtrl (h : wordOf off = 0x010) : hostAccess (access true off v) s = exec (.wrCtrl v) s :=
  hostAccess_write_row (pat := 0x210) (build := fun _ v => .wrCtrl v) (by simp [busTable]) (by simp [h]) v s

theorem hostAccess_wrStatus (h : wordOf off = 0x014) : hostAccess (access true off v) s = exec (.wrStatus v) s :=
  hostAccess_write_row (pat := 0x214) (build := fun _ v => .wrStatus v) (by simp [busTable]) (by simp [h]) v s

theorem hostAccess_wrCmd (h : wordOf off = 0x018) : hostAccess (access true off v) s = execWrCmd v s :=
  hostAccess_write_row (pat := 0x218) (build := fun _ v => .wrCmd v) (by simp [busTable]) (by simp [h]) v s

theorem hostAccess_wrPwPush (h : wordOf off = 0x030) : hostAccess (access true off v) s = execWrPwPush v s :=
  hostAccess_write_row (pat := 0x230) (build := fun _ v => .wrPwPush v) (by simp [busTable]) (by simp [h]) v s

theorem hostAccess_wrSaltPush (h : wordOf off = 0x034) : hostAccess (access true off v) s = execWrSaltPush v s :=
  hostAccess_write_row (pat := 0x234) (build := fun _ v => .wrSaltPush v) (by simp [busTable]) (by simp [h]) v s

end WriteRows

/-- A write that is neither a push nor one of the commands 1 to 3 records no BUSY where nothing is recorded. -/
theorem hostAccess_write_errCode_ne_busy {off : BitVec 9} {v : Word} {s : State} (herr : s.status.err = false)
    (hcode : s.errCode = .none)
    (h : ¬(wordOf off = 0x030 ∨ wordOf off = 0x034 ∨ wordOf off = 0x018 ∧ 1 ≤ v.toNat ∧ v.toNat ≤ 3)) :
    ∃ t, hostAccess (access true off v) s = .next t ∧ t.errCode ≠ .busy := by
  have hword : wordOf off = 0x010 ∨ wordOf off = 0x014 ∨ wordOf off = 0x018 ∨
      ¬(0x010 ≤ wordOf off ∧ wordOf off < 0x01C) ∧ ¬(0x030 ≤ wordOf off ∧ wordOf off < 0x038) := by
    unfold wordOf at *
    omega
  obtain hctrl | hstatus | hcmd | hunlisted := hword
  · exact ⟨_, hostAccess_wrCtrl v s hctrl, by simp [hcode]⟩
  · exact ⟨_, (hostAccess_wrStatus v s hstatus).trans (statusWriteClearsOnes v s), by simp [hcode]⟩
  · by_cases hillegal : IllegalWord v
    · exact ⟨_, (hostAccess_wrCmd v s hcmd).trans (execWrCmd_illegal hillegal s), by simp [herr]⟩
    · obtain rfl : v = 0 := by
        rw [illegalWord_iff] at hillegal
        bv_omega
      exact ⟨s, hostAccess_wrCmd 0 s hcmd, by simp [hcode]⟩
  · exact ⟨s, hostAccess_write_unlisted hunlisted v s, by simp [hcode]⟩

/-- Settles O26: the three refused rows by their offset, the other writes, and the reads, which record nothing. -/
theorem busyRefusesExactlyPushesAndCommands : Obligations.BusyRefusesExactlyPushesAndCommands := by
  refine fun off v s hbusy => ⟨?_, fun herr hcode => ⟨hostAccess_write_errCode_ne_busy herr hcode, ?_⟩⟩
  · rintro (hpw | hsalt | ⟨hcmd, hc⟩)
    · rw [hostAccess_wrPwPush v s hpw, execWrPwPush_busy v hbusy, busyInfo_eq_ofNat, hpw]
      rfl
    · rw [hostAccess_wrSaltPush v s hsalt, execWrSaltPush_busy v hbusy, busyInfo_eq_ofNat, hsalt]
      rfl
    · rw [hostAccess_wrCmd v s hcmd, execWrCmd_busy hbusy hc, busyInfo_eq_ofNat, hcmd]
      rfl
  · obtain ⟨x, hread, -⟩ := readsHaveNoSideEffect off v s
    exact ⟨_, hread, hcode⟩

end Sys2Proof.Machine
end

section
/-! PROOF. The interrupt line (60_exceptions.md R275, R278), and an engine with nothing to do (R285). -/

namespace Sys2Proof.Machine

open Sys2Proof

theorem State.irq_eq_true_iff (s : State) :
    s.irq = true ↔ s.status.done = true ∧ s.ctrl.ieDone = true ∨ s.status.err = true ∧ s.ctrl.ieErr = true := by
  simp [State.irq]

/-- Settles O21: the line is a function of the flags and the enables, and each write sets one of the two. -/
theorem interruptLineFollowsWrites : Obligations.InterruptLineFollowsWrites := by
  refine fun v s => ⟨⟨_, controlWriteSetsEnables v s, State.irq_eq_true_iff _⟩, _, statusWriteClearsOnes v s, ?_⟩
  rw [State.irq_eq_true_iff]
  simp [and_assoc]

theorem State.complete_of_idle {s : State} (hb : s.status.busy = false) : s.complete = s :=
  if_neg (by simp [hb])

/-- Settles O54: both steps of the engine agent ask for BUSY first, and with no event left a step is the completion. -/
theorem idleEngineKeepsItsState : Obligations.IdleEngineKeepsItsState := by
  refine fun s idle => ⟨State.work_of_idle idle, State.complete_of_idle idle, fun hempty => ?_⟩
  obtain ⟨hstep, -⟩ := stepTakesTheNextEvent s []
  rw [hstep hempty, State.complete_of_idle idle]

end Sys2Proof.Machine
end

section
/-! PROOF. Reset (70_reset_and_hazards.md R290 to R294), and what the host sees of its results and its inputs around
an operation (R300, R306). -/

namespace Sys2Proof.Machine

open Sys2Proof

/-- A read that returns `v` returns any word equal to it. -/
theorem State.next_respond_congr (s : State) {v w : Word} (h : v = w) :
    (.next (s.respond v) : Out) = .next { s with rdata := w } :=
  h ▸ rfl

/-! ### Reset -/

theorem digestByte_zeroDigest (i : Nat) : digestByte zeroDigest i = 0 := by
  by_cases h : i < 16 <;> simp [digestByte, zeroDigest, h]

theorem zeroDigest_getElem? {i : Nat} (h : i < 16) : zeroDigest[i]? = some 0 := by
  rw [getElem?_eq_digestByte _ h, digestByte_zeroDigest]

/-- STATUS and CTRL hold no capacity, so the reference configuration decides their reset words. -/
theorem State.resetFor_statusWord (p : Params) : (State.resetFor p).statusWord = 0 := by
  show State.reset.statusWord = 0
  decide

theorem State.resetFor_ctrlWord (p : Params) : (State.resetFor p).ctrlWord = 0 := by
  show State.reset.ctrlWord = 0
  decide

/-- Settles O52: the registers are read off `State.resetFor`; the buffers are empty stores and zero digests. -/
theorem resetStateValues : Obligations.ResetStateValues := by
  intro p
  refine ⟨State.next_respond_congr _ (State.resetFor_statusWord p),
    State.next_respond_congr _ (State.resetFor_ctrlWord p), rfl, rfl, rfl, rfl, rfl, rfl, rfl, rfl, rfl,
    fun a => ?_, fun i hi => ?_, rfl, rfl, rfl⟩
  · exact ⟨Memory.read_nil a, Memory.read_nil a, Memory.read_nil a⟩
  · exact ⟨zeroDigest_getElem? hi, zeroDigest_getElem? hi, zeroDigest_getElem? hi⟩

@[simp] theorem State.applyReset_busy (s : State) (r : Bool) : (s.applyReset r).status.busy = false := rfl

@[simp] theorem State.applyReset_irq (s : State) (r : Bool) : (s.applyReset r).irq = false := rfl

theorem State.applyReset_false_rdata (s : State) : (s.applyReset false).rdata = s.rdata := rfl

/-- Settles O53: the engine is idle after a reset, so neither of its own steps has anything to do. -/
theorem resetOverwritesEverything : Obligations.ResetOverwritesEverything := by
  intro s r rest hpending
  obtain ⟨-, -, -, -, hstep⟩ := stepTakesTheNextEvent s rest
  have idle := (s.popEvent rest).applyReset_busy r
  refine ⟨_, hstep r hpending, rfl, ?_, State.applyReset_irq _ r, State.work_of_idle idle,
    State.complete_of_idle idle⟩
  rintro rfl
  exact (s.popEvent rest).applyReset_false_rdata

/-- Settles O55: the reference configuration is one of the legal choices. -/
theorem invariantHoldsAtReset : Obligations.InvariantHoldsAtReset :=
  ⟨State.resetFor_inv (by decide), fun _ => State.resetFor_inv⟩

/-! ### The results while an operation runs -/

/-- A word of the view of a buffer whose bytes are all 0. -/
theorem viewWord_eq_zero {f : Nat → Byte} (h : ∀ i, f i = 0) (k : Nat) : viewWord f k = 0 := by
  simp [viewWord, littleEndian, h]

/-- Settles O16: BUSY makes the digest 0 and the length 0, and a result store of length 0 lists no byte. -/
theorem resultsReadZeroWhileBusy : Obligations.ResultsReadZeroWhileBusy := by
  rintro s ⟨hbelow, -, -, -, hzero⟩ hbusy
  obtain ⟨hdigest, hlen⟩ := hzero (.inl hbusy)
  have hdigestByte (i : Nat) : digestByte s.digestBuf i = 0 := by rw [hdigest, digestByte_zeroDigest]
  have hresultByte (a : Nat) : s.resultBuf.read a = 0 := Memory.read_eq_zero_of_below hbelow (by simp [hlen])
  refine ⟨fun k _ => ?_, fun w _ => ?_, ?_⟩
  · exact s.next_respond_congr (viewWord_eq_zero hdigestByte k)
  · exact s.next_respond_congr (viewWord_eq_zero hresultByte w)
  · exact s.next_respond_congr (congrArg (BitVec.setWidth 32) hlen)

/-! ### The inputs of the next operation -/

/-- Settles O29: a legal capacity is below 2^16, so the length counts the accepted byte. -/
theorem pushesAppendToTheInputs : Obligations.PushesAppendToTheInputs := by
  rintro v s ⟨hpwf, hswf, -⟩ ⟨⟨-, hpwCap, -, hsaltCap⟩, hpwLen, hsaltLen, -, -⟩ idle
  rw [← pushByte_eq_setWidth]
  refine ⟨fun room => ⟨_, execWrPwPush_room v idle room, ?_, rfl⟩,
    fun room => ⟨_, execWrSaltPush_room v idle room, ?_, rfl⟩⟩
  · exact s.appendPw_password _ hpwf (by omega)
  · exact s.appendSalt_salt _ hswf (by omega)

end Sys2Proof.Machine
end
